-- ==== Sys2Proof/Word.lean ====
section
/-! DEFINITION. The words of the block (spec/00_scope.md R6, R8, R12): bytes, 32-bit register and table values, 64-bit
argument and response data. Bit 0 is the least significant bit. -/

namespace Sys2Proof

/-- An 8-bit unsigned byte (R12). -/
abbrev Byte := BitVec 8

/-- A 32-bit unsigned register, table entry or command word (R6, R12). -/
abbrev Word := BitVec 32

/-- A 64-bit command argument or response datum (R6). -/
abbrev Long := BitVec 64

end Sys2Proof
end

