-- ==== Sys2Proof/Syntax.lean ====
section
/-! DEFINITION. The commands of the block: one constructor per row of spec/opcode_table.json (30_encoding.md R90), with the
fields of R86; and the beat, the one fixed-size form in which a command reaches the port (R85). -/

namespace Sys2Proof

/-- One command beat (R85): the command word CMD and the argument ARG. -/
structure Beat where
  cmd : Word
  arg : Long
  deriving DecidableEq, Repr

/-- The commands (R90). A field keeps its encoded width (R86); nothing is signed (R89). -/
inductive Instr where
  /-- R110 -/
  | nop
  /-- R112: VALUE32 -/
  | setpoly (value : Word)
  /-- R113: VALUE32 -/
  | setinit (value : Word)
  /-- R114: VALUE32 -/
  | setxor (value : Word)
  /-- R115: WIDTH is the width as an integer, not a code (R89); REFIN; REFOUT -/
  | config (width : BitVec 8) (refin refout : Bool)
  /-- R125: SEL -/
  | info (sel : BitVec 2)
  /-- R128: IDX -/
  | tabrd (idx : BitVec 8)
  /-- R140: H -/
  | hnew (h : BitVec 8)
  /-- R141: H -/
  | hrst (h : BitVec 8)
  /-- R145: H, BYTE -/
  | hupd (h : BitVec 8) (byte : Byte)
  /-- R150: H, OFFSET, LENGTH -/
  | hupdr (h : BitVec 8) (offset length : Word)
  /-- R155: H -/
  | hget (h : BitVec 8)
  /-- R158: H -/
  | hfree (h : BitVec 8)
  /-- R160: CNT (the byte count minus one), OFFSET, DATA32 -/
  | bufwr (cnt : BitVec 2) (offset data : Word)
  /-- R181: NBITS, VALUE64 -/
  | revb (nbits : BitVec 6) (value : Long)
  deriving DecidableEq, Repr

end Sys2Proof
end

