-- ==== Sys2Proof/WellFormed.lean ====
section
/-! DEFINITION. Which commands have an encoding (spec/30_encoding.md R87, R90, R93). Every field of `Instr` has exactly its
encoded width, so the one check is BUFWR's: the data bytes above the count are reserved and must be zero. -/

namespace Sys2Proof

/-- BUFWR's reserved data bytes, DATA32 bytes CNT+1..3, are zero (R93). -/
def dataBytesAboveCountZero (cnt : BitVec 2) (data : Word) : Bool :=
  data >>> (8 * (cnt.toNat + 1)) == 0

/-- The command has an encoding. A field with a legal encoding and a semantically bad value (WIDTH = 24, H at or above
NUM_HASHERS, a range outside BUF) is well-formed: it raises the command's own status (R93). -/
def Instr.wf : Instr → Bool
  | .bufwr cnt _ data => dataBytesAboveCountZero cnt data
  | .nop | .setpoly _ | .setinit _ | .setxor _ | .config _ _ _ | .info _ | .tabrd _ | .hnew _ | .hrst _ | .hupd _ _
  | .hupdr _ _ _ | .hget _ | .hfree _ | .revb _ _ => true

end Sys2Proof
end

