-- ==== Sys2Proof/Decode.lean ====
section
/-! DEFINITION. Decoding and encoding of beats (spec/30_encoding.md R85 to R93): the opcode map of R90 as a table of rows,
the decode function of R91, total over all beats and refusing by name, and the encoder written from the same formats (R87). -/

namespace Sys2Proof

/-- Why Decode rejects a beat (R91). The machine answers each with ILLEGAL_COMMAND (R206). -/
inductive DecodeError where
  /-- no row of the opcode map has this opcode (R92) -/
  | unassignedOpcode
  /-- a reserved bit of CMD is 1 (R93) -/
  | reservedCmdBit
  /-- a reserved bit of ARG is 1 (R93) -/
  | reservedArgBit
  deriving DecidableEq, Repr

/-- OPCODE, CMD[31:24] (R86). -/
def Beat.opcode (b : Beat) : BitVec 8 := b.cmd.extractLsb' 24 8

/-- H, CMD[23:16] (R86, R88). -/
def Beat.h (b : Beat) : BitVec 8 := b.cmd.extractLsb' 16 8

/-- WIDTH of CONFIG, IDX of TABRD, BYTE of HUPD: CMD[7:0] (R86). -/
def Beat.low8 (b : Beat) : BitVec 8 := b.cmd.extractLsb' 0 8

/-- SEL of INFO, CNT of BUFWR: CMD[1:0] (R86). -/
def Beat.low2 (b : Beat) : BitVec 2 := b.cmd.extractLsb' 0 2

/-- NBITS of REVB: CMD[5:0] (R86). -/
def Beat.low6 (b : Beat) : BitVec 6 := b.cmd.extractLsb' 0 6

/-- VALUE32, OFFSET: ARG[31:0] (R86). -/
def Beat.argLow (b : Beat) : Word := b.arg.extractLsb' 0 32

/-- LENGTH, DATA32: ARG[63:32] (R86). -/
def Beat.argHigh (b : Beat) : Word := b.arg.extractLsb' 32 32

/-- One row of the opcode map (R90). -/
structure OpRow where
  opcode : BitVec 8
  mask : Word
  pattern : Word
  /-- the ARG bits that must be 0; BUFWR's depend on CMD -/
  argZero : Beat → Long
  /-- the command with its fields (R86) -/
  build : Beat → Instr

/-- "all 64" of R90. -/
def argZeroAll (_ : Beat) : Long := 0xFFFFFFFFFFFFFFFF

/-- "ARG[63:32]" of R90. -/
def argZeroHigh (_ : Beat) : Long := 0xFFFFFFFF00000000

/-- "none" of R90. -/
def argZeroNone (_ : Beat) : Long := 0

/-- "ARG[63 : 32+8·(CNT+1)] (none when CNT = 3)" of R90. -/
def argZeroAboveCount (b : Beat) : Long := BitVec.allOnes 64 <<< (32 + 8 * (b.low2.toNat + 1))

/-- The opcode map, rows 0x0_ (engine) of R90. -/
def engineRows : List OpRow := [
  ⟨0x00, 0xFFFFFFFF, 0x00000000, argZeroAll, fun _ => .nop⟩,
  ⟨0x01, 0xFFFFFFFF, 0x01000000, argZeroHigh, fun b => .setpoly b.argLow⟩,
  ⟨0x02, 0xFFFFFFFF, 0x02000000, argZeroHigh, fun b => .setinit b.argLow⟩,
  ⟨0x03, 0xFFFFFFFF, 0x03000000, argZeroHigh, fun b => .setxor b.argLow⟩,
  ⟨0x04, 0xFFFFFC00, 0x04000000, argZeroAll, fun b => .config b.low8 (b.cmd.getLsbD 8) (b.cmd.getLsbD 9)⟩,
  ⟨0x05, 0xFFFFFFFC, 0x05000000, argZeroAll, fun b => .info b.low2⟩,
  ⟨0x08, 0xFFFFFF00, 0x08000000, argZeroAll, fun b => .tabrd b.low8⟩]

/-- The opcode map, rows 0x1_ (hasher) of R90. -/
def hasherRows : List OpRow := [
  ⟨0x10, 0xFF00FFFF, 0x10000000, argZeroAll, fun b => .hnew b.h⟩,
  ⟨0x11, 0xFF00FFFF, 0x11000000, argZeroAll, fun b => .hrst b.h⟩,
  ⟨0x12, 0xFF00FF00, 0x12000000, argZeroAll, fun b => .hupd b.h b.low8⟩,
  ⟨0x13, 0xFF00FFFF, 0x13000000, argZeroNone, fun b => .hupdr b.h b.argLow b.argHigh⟩,
  ⟨0x14, 0xFF00FFFF, 0x14000000, argZeroAll, fun b => .hget b.h⟩,
  ⟨0x15, 0xFF00FFFF, 0x15000000, argZeroAll, fun b => .hfree b.h⟩]

/-- The opcode map, rows 0x2_ (buffer) and 0x3_ (reflection) of R90. -/
def bufferRows : List OpRow := [
  ⟨0x20, 0xFFFFFFFC, 0x20000000, argZeroAboveCount, fun b => .bufwr b.low2 b.argLow b.argHigh⟩,
  ⟨0x30, 0xFFFFFFC0, 0x30000000, argZeroNone, fun b => .revb b.low6 b.arg⟩]

/-- The opcode map (R90). -/
def opcodeMap : List OpRow := engineRows ++ hasherRows ++ bufferRows

/-- R91's two reserved-bit checks against a row, CMD first, then ARG. -/
def decodeRow (row : OpRow) (b : Beat) : Except DecodeError Instr :=
  if b.cmd &&& row.mask ≠ row.pattern then .error .reservedCmdBit
  else if b.arg &&& row.argZero b ≠ 0 then .error .reservedArgBit
  else .ok (row.build b)

/-- Decode (R91), total over all 2^96 beats. -/
def decode (b : Beat) : Except DecodeError Instr :=
  match opcodeMap.find? (fun row => row.opcode == b.opcode) with
  | none => .error .unassignedOpcode
  | some row => decodeRow row b

/-- The bits of `v` at bit `k` and up of a command word, zero elsewhere. -/
def inCmd {w : Nat} (v : BitVec w) (k : Nat) : Word := v.setWidth 32 <<< k

/-- The bits of `v` at bit `k` and up of an argument, zero elsewhere. -/
def inArg {w : Nat} (v : BitVec w) (k : Nat) : Long := v.setWidth 64 <<< k

/-- The encoder, from the formats of R87: the opcode's match word with each field at its place (R86), so every reserved bit
is written as 0 (R96). BUFWR's data are written as given, so only a well-formed command (`Instr.wf`) has an encoding that
Decode accepts. -/
def encode : Instr → Beat
  | .nop => ⟨0x00000000, 0⟩
  | .setpoly v => ⟨0x01000000, inArg v 0⟩
  | .setinit v => ⟨0x02000000, inArg v 0⟩
  | .setxor v => ⟨0x03000000, inArg v 0⟩
  | .config w refin refout =>
    ⟨0x04000000 ||| inCmd (BitVec.ofBool refout) 9 ||| inCmd (BitVec.ofBool refin) 8 ||| inCmd w 0, 0⟩
  | .info sel => ⟨0x05000000 ||| inCmd sel 0, 0⟩
  | .tabrd idx => ⟨0x08000000 ||| inCmd idx 0, 0⟩
  | .hnew h => ⟨0x10000000 ||| inCmd h 16, 0⟩
  | .hrst h => ⟨0x11000000 ||| inCmd h 16, 0⟩
  | .hupd h byte => ⟨0x12000000 ||| inCmd h 16 ||| inCmd byte 0, 0⟩
  | .hupdr h offset length => ⟨0x13000000 ||| inCmd h 16, inArg length 32 ||| inArg offset 0⟩
  | .hget h => ⟨0x14000000 ||| inCmd h 16, 0⟩
  | .hfree h => ⟨0x15000000 ||| inCmd h 16, 0⟩
  | .bufwr cnt offset data => ⟨0x20000000 ||| inCmd cnt 0, inArg data 32 ||| inArg offset 0⟩
  | .revb nbits value => ⟨0x30000000 ||| inCmd nbits 0, value⟩

/-- The beat of an instruction numbered as spec/opcode_table.json numbers bits: CMD is bits 31..0, ARG bits 95..32; only
the low `nbits` bits of `w` are the instruction's, every bit above them is 0. -/
def beatOfTableWord (nbits w : Nat) : Beat :=
  let v := w % 2 ^ min nbits 96
  ⟨BitVec.ofNat 32 v, BitVec.ofNat 64 (v >>> 32)⟩

/-- What the decoder reads from an instruction whose bits are `w`. -/
def decodeTableWord (nbits w : Nat) : Option Instr :=
  match decode (beatOfTableWord nbits w) with
  | .ok i => some i
  | .error _ => none

end Sys2Proof
end

