-- ==== Sys2Proof/Config.lean ====
section
/-! DEFINITION. What a block instance fixes (spec/00_scope.md R7) and the free values of the model. A free value is a
constant with no body: nothing in Lean can evaluate it, so whatever is proved holds for every value it may have. -/

namespace Sys2Proof

/-- The open parameters of an instance that commands can observe (R7). Each is held as its highest legal index, so that
every value of this type lies in R7's range: NUM_HASHERS in 1..256, BUF_BYTES in 1..2^32-1. -/
structure Params where
  /-- NUM_HASHERS - 1, the highest slot number; the 8 bits INFO reports (R126, D40). -/
  lastSlot : BitVec 8
  /-- BUF_BYTES - 1, the highest offset of the byte buffer. -/
  lastOffset : Fin 4294967295
  deriving DecidableEq, Repr, Inhabited

/-- NUM_HASHERS (R7). -/
def Params.numHashers (p : Params) : Nat := p.lastSlot.toNat + 1

/-- BUF_BYTES (R7). -/
def Params.bufBytes (p : Params) : Nat := p.lastOffset.val + 1

/-- The parameters of the instance that `State.reset` describes: implementation-defined (R7, U10), so a constant with no
body. DESIGN CHOICE, safe: log 1. -/
opaque Config.params : Params

/-- BUF_RESET_CONTENT (R7, R41, U3): the value of a buffer byte that no BUFWR has written since hardware reset, one free
value per reset (the first argument numbers the draws) and per byte address, stable until the byte is written. Safe: log 2. That the draw does not also depend on the instance or on its history, so that
two instances, or two histories with equally many resets, agree on a byte neither has written, is a DESIGN CHOICE where R228
and R41 leave each its own draw, unsafe: log 19. -/
opaque Config.bufResetContent : Nat → Nat → Byte

end Sys2Proof
end

