-- ==== Sys2Proof/Machine/State.lean ====
section
/-! DEFINITION. The state of the block (spec/10_state.md R20 to R47) as plain data, and the state after hardware reset
(R45, 70_reset_and_hazards.md R230). -/

namespace Sys2Proof.Machine

/-- The block has no fault: an error is a STATUS in a response and the machine goes on (60_exceptions.md R200, R203, R222),
and every accepted beat gets exactly one response (30_encoding.md R82). No step raises one, so the type is empty. -/
inductive Fault where
  deriving DecidableEq, Repr

/-- Refusals of the model. -/
inductive Refusal where
  /-- Raised by an arm of `exec` that has no meaning yet; safe. No arm of this model raises it. -/
  | notModelled (mnemonic : String)
  deriving DecidableEq, Repr

/-- The STATUS of a response (R200). The reserved codes 0x6 to 0xF are never produced (R207, U7): no constructor. -/
inductive Status where
  | ok
  | invalidParameter
  | indexOutOfRange
  | notConfigured
  | noHasher
  | illegalCommand
  deriving DecidableEq, Repr

/-- A response: STATUS and DATA (R94). -/
structure Response where
  status : Status
  data : Long
  deriving DecidableEq, Repr

/-- The configured engine (R25 to R32). -/
structure Engine where
  /-- ENG_VALID (R25) -/
  valid : Bool
  /-- ENG_WIDTH (R26) -/
  width : BitVec 8
  /-- ENG_POLY (R27) -/
  poly : Word
  /-- ENG_INIT (R28) -/
  init : Word
  /-- ENG_XOROUT (R29) -/
  xorout : Word
  /-- ENG_REFIN (R31) -/
  refin : Bool
  /-- ENG_REFOUT (R32) -/
  refout : Bool
  /-- TABLE[0..255] (R30) -/
  table : Vector Word 256
  deriving DecidableEq, Repr

/-- The staging registers and their written bits (R37 to R40). -/
structure Staging where
  /-- STG_POLY (R37) -/
  poly : Word
  /-- STG_INIT (R38) -/
  init : Word
  /-- STG_XOR (R39) -/
  xor : Word
  /-- STG_POLY_W (R40) -/
  polyW : Bool
  /-- STG_INIT_W (R40) -/
  initW : Bool
  /-- STG_XOR_W (R40) -/
  xorW : Bool
  deriving DecidableEq, Repr

/-- The port state (R43). -/
structure Port where
  /-- BUSY: 1 from the acceptance of a command until its response has been delivered -/
  busy : Bool
  /-- PEND: the pending response -/
  pend : Option Response
  deriving DecidableEq, Repr

/-- What the host drives at one rising edge of clk: the block's input signals (R80). -/
structure Pins where
  rstN : Bool
  cmdValid : Bool
  cmdWord : Word
  cmdArg : Long
  rspReady : Bool
  deriving DecidableEq, Repr

/-- The host's side of the ports, the model's own and not state of the block (logs 10, 11). -/
structure HostSide where
  /-- what the host drives at the coming rising edges, the next one first; past the end it drives nothing -/
  edges : List Pins
  /-- the responses delivered so far, oldest first (R248) -/
  delivered : List Response
  deriving DecidableEq, Repr

/-- The state. Everything R20 names, the instance's parameters (R46), and the model's own `bufDraw` and `host`. -/
structure State where
  /-- NUM_HASHERS and BUF_BYTES, fixed for an instance: no step writes them (R46; log 1) -/
  params : Params
  /-- ENG_* and TABLE -/
  eng : Engine
  /-- STG_* and the written bits -/
  stg : Staging
  /-- CUR[h] (R34); slots at or above NUM_HASHERS do not exist and are never touched (log 6) -/
  cur : Vector Word 256
  /-- HV[h] (R35) -/
  hv : Vector Bool 256
  /-- BUF (R41): the bytes written since hardware reset, addresses strictly rising; BUF_WRITTEN[a] (R42) is that a is
  listed (log 7) -/
  buf : List Host.Cell
  /-- the number of the draw that gives unwritten BUF bytes their values (log 3); equal numbers give equal bytes, whichever
  instance or history the states belong to (log 19) -/
  bufDraw : Nat
  /-- BUSY and the pending response (R43) -/
  port : Port
  /-- the host's side of the ports -/
  host : HostSide
  deriving DecidableEq, Repr

/-- The engine after hardware reset (R45). TABLE's value is unspecified there and unobservable: DESIGN CHOICE zero (log 4). -/
def Engine.reset : Engine :=
  { valid := false, width := 0, poly := 0, init := 0, xorout := 0, refin := false, refout := false,
    table := Vector.replicate 256 0 }

/-- The staging registers after hardware reset (R45). -/
def Staging.reset : Staging :=
  { poly := 0, init := 0, xor := 0, polyW := false, initW := false, xorW := false }

/-- No command executing and no response pending (R43). -/
def Port.idle : Port := { busy := false, pend := none }

/-- An instance with parameters `p` right after hardware reset, nothing driven by the host yet (R45, R230). CUR is
unspecified and unobservable: DESIGN CHOICE zero (log 5). BUF has nothing written: its bytes are free values (log 2). -/
def State.resetWith (p : Params) : State :=
  { params := p, eng := Engine.reset, stg := Staging.reset, cur := Vector.replicate 256 0,
    hv := Vector.replicate 256 false, buf := [], bufDraw := 0, port := Port.idle, host := { edges := [], delivered := [] } }

/-- The block right after hardware reset: the instance whose parameters `Config.params` leaves open (R45, R7). -/
def State.reset : State := State.resetWith Config.params

end Sys2Proof.Machine
end

