-- ==== Sys2Proof/Machine/Ops.lean ====
section
/-! DEFINITION. The named operations on the state: byte-buffer memory (spec/20_memory.md), hasher slots (10_state.md R34,
R35), how a command ends (`raise` and `respond`, 00_scope.md R11), the port (30_encoding.md R81) and hardware reset
(70_reset_and_hazards.md R230). The block has no trap entry and no trap return (60_exceptions.md R222, R223): `raise` is its
whole error path. -/

namespace Sys2Proof.Machine

/-! ### Byte memory: a list of cells, addresses strictly rising -/

/-- The byte listed at address `a`, if one is. -/
def Memory.get? : List Host.Cell → Nat → Option Byte
  | [], _ => none
  | (k, v) :: rest, a => if k = a then some v else Memory.get? rest a

/-- The cells with byte `v` at address `a`, in canonical form. -/
def Memory.put : List Host.Cell → Nat → Byte → List Host.Cell
  | [], a, v => [(a, v)]
  | (k, w) :: rest, a, v =>
    if a < k then (a, v) :: (k, w) :: rest
    else if a = k then (a, v) :: rest
    else (k, w) :: Memory.put rest a v

/-- The canonical form: addresses strictly rising. A listed byte is a written byte (R42), and an unlisted one has no
written value, so every listed entry differs from what an unlisted address holds. -/
abbrev Memory.wf (m : List Host.Cell) : Prop := (m.map Prod.fst).Pairwise (· < ·)

/-- BUF_WRITTEN[a] (R42). -/
def State.bufWritten (s : State) (a : Nat) : Bool := (Memory.get? s.buf a).isSome

/-- MemRead(a, 1) (R11): the written byte, or the free value of a byte not written since reset (R41, R151(d), U3). -/
def State.memRead (s : State) (a : Nat) : Byte :=
  match Memory.get? s.buf a with
  | some v => v
  | none => Config.bufResetContent s.bufDraw a

/-- MemWrite(a, 1, v) (R11), which also sets BUF_WRITTEN[a] (R160). -/
def State.memWrite (s : State) (a : Nat) (v : Byte) : State := { s with buf := Memory.put s.buf a v }

/-! ### Hasher slots -/

/-- CUR[h] (R34). -/
def State.curAt (s : State) (h : BitVec 8) : Word := s.cur[h.toNat]'(h.isLt)

/-- HV[h] (R35). -/
def State.hvAt (s : State) (h : BitVec 8) : Bool := s.hv[h.toNat]'(h.isLt)

/-- CUR[h] <- v. -/
def State.setCur (s : State) (h : BitVec 8) (v : Word) : State := { s with cur := s.cur.set h.toNat v h.isLt }

/-- HV[h] <- v. -/
def State.setHv (s : State) (h : BitVec 8) (v : Bool) : State := { s with hv := s.hv.set h.toNat v h.isLt }

/-- HV[h] <- 0 for every h, CONFIG's invalidation of every hasher (R118). -/
def State.clearHv (s : State) : State := { s with hv := Vector.replicate 256 false }

/-! ### Engine and staging -/

/-- TABLE[i] (R30). -/
def Engine.tableAt (e : Engine) (i : BitVec 8) : Word := e.table[i.toNat]'(i.isLt)

/-- Replace the engine registers (CONFIG alone does, R118). -/
def State.setEng (s : State) (e : Engine) : State := { s with eng := e }

/-- Replace the staging registers (R111). -/
def State.setStg (s : State) (g : Staging) : State := { s with stg := g }

/-! ### How a command ends -/

/-- What a command's pseudocode ends in (R11). -/
inductive Result where
  /-- `raise S`: status S, DATA 0, no state changed -/
  | raise (status : Status)
  /-- `respond(v)` in state `s`: status OK, DATA v -/
  | respond (s : State) (data : Long)
  deriving DecidableEq, Repr

/-- Put a response on the response port: it is pending (R43, R81(c)). -/
def State.present (s : State) (r : Response) : State := { s with port := { s.port with pend := some r } }

/-- End the command begun in state `s`: an error leaves every piece of state as it was before the command and DATA is 0
(R94, R202, R203); otherwise the command's own effect and its datum, with status OK. -/
def State.finish (s : State) : Result → State
  | .raise st => s.present { status := st, data := 0 }
  | .respond t v => t.present { status := .ok, data := v }

/-! ### The port (R81) -/

/-- cmd_ready: 1 when rst_n = 1 and BUSY = 0 (R81(b), R81(e), R217; log 9). -/
def State.cmdReady (s : State) (p : Pins) : Bool := p.rstN && !s.port.busy

/-- The response port: the pending response while rsp_valid = 1, nothing while rsp_valid = 0 (R81, R84); rst_n = 0 forces
rsp_valid = 0 (R81(e)). -/
def State.rspPort (s : State) (p : Pins) : Option Response := if p.rstN then s.port.pend else none

/-- rsp_valid. -/
def State.rspValid (s : State) (p : Pins) : Bool := (s.rspPort p).isSome

/-- rsp_status: the 4-bit code of a status (R200). -/
def Status.code : Status → BitVec 4
  | .ok => 0
  | .invalidParameter => 1
  | .indexOutOfRange => 2
  | .notConfigured => 3
  | .noHasher => 4
  | .illegalCommand => 5

/-- Acceptance of a command: BUSY becomes 1 (R81(c)). -/
def State.accept (s : State) : State := { s with port := { s.port with busy := true } }

/-- Delivery of the pending response: rsp_valid falls and BUSY becomes 0 (R81(d)). -/
def State.deliver (s : State) (r : Response) : State :=
  { s with port := Port.idle, host := { s.host with delivered := s.host.delivered ++ [r] } }

/-- The next rising edge has been driven: drop it from the host's list. -/
def State.setEdges (s : State) (edges : List Pins) : State := { s with host := { s.host with edges := edges } }

/-- Hardware reset at a rising edge with rst_n = 0 (R230, R232): every piece of state takes its reset value, a pending
response is discarded, and BUF is unspecified again, a fresh draw (R41, C6). The instance and the host are not reset. -/
def State.hardReset (s : State) : State :=
  { State.resetWith s.params with bufDraw := s.bufDraw + 1, host := s.host }

end Sys2Proof.Machine
end

