-- ==== Sys2Proof/Machine/Flags.lean ====
section
/-! DEFINITION. The block has no flags and no condition codes (spec/10_state.md R23); a command's outcome is its STATUS. This
file holds the status checks, each a guard before the rest of a command, so that the order in which a command writes its
guards is the priority of 60_exceptions.md R220. -/

namespace Sys2Proof.Machine

/-- NOT_CONFIGURED when ENG_VALID = 0 (R210). -/
def State.needEngine (s : State) (rest : Result) : Result :=
  if s.eng.valid then rest else .raise .notConfigured

/-- NO_HASHER when H >= NUM_HASHERS (R211). -/
def State.needSlot (s : State) (h : BitVec 8) (rest : Result) : Result :=
  if h.toNat < s.params.numHashers then rest else .raise .noHasher

/-- Slot H is live: H < NUM_HASHERS and HV[H] = 1 (41_hasher.md). -/
def State.live (s : State) (h : BitVec 8) : Bool := decide (h.toNat < s.params.numHashers) && s.hvAt h

/-- NOT_CONFIGURED without an engine, then NO_HASHER when slot H is not live (R211, R220). -/
def State.needLive (s : State) (h : BitVec 8) (rest : Result) : Result :=
  s.needEngine (if s.live h then rest else .raise .noHasher)

/-- InRange(off, n): off + n <= BUF_BYTES on unbounded naturals (R61). -/
def State.inRange (s : State) (off n : Nat) : Bool := decide (off + n ≤ s.params.bufBytes)

/-- INDEX_OUT_OF_RANGE when the range is not in BUF (R61, R205). -/
def State.needRange (s : State) (off n : Nat) (rest : Result) : Result :=
  if s.inRange off n then rest else .raise .indexOutOfRange

/-- CONFIG's width check: only 8, 16 and 32 (R116, C1). -/
def widthSupported (w : BitVec 8) : Bool := w == 8 || w == 16 || w == 32

/-- CONFIG's parameter-presence check: all three staging registers have been written since reset (R117). -/
def Staging.allWritten (g : Staging) : Bool := g.polyW && g.initW && g.xorW

/-- INVALID_PARAMETER unless the width is supported and all three parameters are staged (R116, R117, R204). -/
def State.needParameters (s : State) (w : BitVec 8) (rest : Result) : Result :=
  if widthSupported w && s.stg.allWritten then rest else .raise .invalidParameter

end Sys2Proof.Machine
end

