-- ==== Sys2Proof/Machine/Operands.lean ====
section
/-! DEFINITION. Operand forms (spec/30_encoding.md R88, R89): the byte count and data bytes of BUFWR, and the words INFO
assembles. A slot operand H is any of 0..255; that the slot exists is a status check (Flags.lean). -/

namespace Sys2Proof.Machine

/-- BUFWR's byte count n = CNT + 1 (R89). -/
def byteCount (cnt : BitVec 2) : Nat := cnt.toNat + 1

/-- Data byte k of DATA32: DATA32[8k+7 : 8k] (R62, R89). -/
def dataByte (data : Word) (k : Nat) : Byte := data.extractLsb' (8 * k) 8

/-- Write data bytes 0..n-1 to BUF[off], ..., BUF[off + n - 1], the lowest-numbered byte at the lowest address (R62). -/
def State.writeBytes (s : State) (off : Nat) (data : Word) : Nat → State
  | 0 => s
  | n + 1 => (s.writeBytes off data n).memWrite (off + n) (dataByte data n)

/-- zext_64 of a 32-bit value (R10, R65). -/
def zext64 (v : Word) : Long := v.setWidth 64

/-- The bits of `v` at bit `k` and up of a response datum, zero elsewhere. -/
def inData {w : Nat} (v : BitVec w) (k : Nat) : Long := v.setWidth 64 <<< k

/-- The INFO SEL = 0 word (R126). -/
def State.infoWord (s : State) : Long :=
  inData (BitVec.ofNat 32 s.params.bufBytes) 32 ||| inData s.params.lastSlot 24
    ||| inData (BitVec.ofBool s.stg.xorW) 18 ||| inData (BitVec.ofBool s.stg.initW) 17
    ||| inData (BitVec.ofBool s.stg.polyW) 16 ||| inData (BitVec.ofBool s.eng.valid) 15
    ||| inData (BitVec.ofBool s.eng.refout) 9 ||| inData (BitVec.ofBool s.eng.refin) 8 ||| inData s.eng.width 0

end Sys2Proof.Machine
end

