-- ==== Sys2Proof/Machine/Buffer.lean ====
section
/-! DEFINITION. The buffer command (spec/41_hasher.md): BUFWR. -/

namespace Sys2Proof.Machine

/-- BUFWR (R160, R161): all n bytes or none; needs no engine and no hasher. -/
def execBufwr (cnt : BitVec 2) (offset data : Word) (s : State) : Host.Outcome State Fault Refusal :=
  .next (s.finish (s.needRange offset.toNat (byteCount cnt)
    (.respond (s.writeBytes offset.toNat data (byteCount cnt)) 0)))

end Sys2Proof.Machine
end

