-- ==== Sys2Proof/Machine/Crc.lean ====
section
/-! DEFINITION. The algorithms of the block: bit reflection (spec/42_reflection.md R180), the lookup-table generator
(40_engine.md R120), the per-byte update and the finalization (41_hasher.md R142, R155). They compute on unbounded naturals,
as the spec's pseudocode does (00_scope.md R9, R10), and narrow once at the end. -/

namespace Sys2Proof.Machine

/-- Mask(W) = 2^W - 1 (R33). -/
def mask (w : Nat) : Nat := 2 ^ w - 1

/-- Msb(W) = 2^(W-1) (R33). -/
def msb (w : Nat) : Nat := 2 ^ (w - 1)

/-- Reverse(v, n): the sum over i < n of v[i] << (n - 1 - i) (R180). -/
def reverseBits (v n : Nat) : Nat := ((List.range n).map fun i => (v.testBit i).toNat <<< (n - 1 - i)).sum

/-- One step of GenEntry's loop: shift, and XOR the polynomial when the top bit was set; not re-masked (R120, C2). -/
def genStep (w p reg : Nat) : Nat := if reg &&& msb w ≠ 0 then (reg <<< 1) ^^^ p else reg <<< 1

/-- `n` steps of GenEntry's loop. -/
def genSteps (w p : Nat) : Nat → Nat → Nat
  | 0, reg => reg
  | n + 1, reg => genSteps w p n (genStep w p reg)

/-- GenEntry(W, P, d) (R120). -/
def genEntry (w p d : Nat) : Nat := genSteps w p 8 ((d <<< (w - 8)) &&& mask w) &&& mask w

/-- The 256 entries CONFIG writes for width W and polynomial P (R118). -/
def genTable (w p : Nat) : Vector Word 256 := Vector.ofFn fun d => BitVec.ofNat 32 (genEntry w p d.val)

/-- CrcStep(c, b) with the engine's W, ENG_REFIN and TABLE (R142). -/
def Engine.crcStep (e : Engine) (c : Word) (b : Byte) : Word :=
  let w := e.width.toNat
  let val := if e.refin then reverseBits b.toNat 8 else b.toNat
  let folded := (c.toNat ^^^ (val <<< (w - 8))) &&& mask w
  let pos := (folded >>> (w - 8)) &&& 0xFF
  let shifted := (folded <<< 8) &&& mask w
  BitVec.ofNat 32 ((shifted ^^^ (e.tableAt (BitVec.ofNat 8 pos)).toNat) &&& mask w)

/-- The CrcStep chain over BUF[off], ..., BUF[off + n - 1] in rising address order (R63, R150). -/
def State.crcChain (s : State) (c : Word) (off : Nat) : Nat → Word
  | 0 => c
  | n + 1 => s.eng.crcStep (s.crcChain c off n) (s.memRead (off + n))

/-- The finalized checksum of accumulator value `c` (R155). -/
def Engine.finalize (e : Engine) (c : Word) : Long :=
  let w := e.width.toNat
  let value := if e.refout then reverseBits c.toNat w else c.toNat
  BitVec.ofNat 64 ((value ^^^ e.xorout.toNat) &&& mask w)

end Sys2Proof.Machine
end

