-- ==== Sys2Proof/Machine/Engine.lean ====
section
/-! DEFINITION. The engine commands (spec/40_engine.md): NOP, SETPOLY, SETINIT, SETXOR, CONFIG, INFO, TABRD. -/

namespace Sys2Proof.Machine

/-- NOP (R110). -/
def execNop (s : State) : Host.Outcome State Fault Refusal := .next (s.finish (.respond s 0))

/-- SETPOLY (R112). -/
def execSetpoly (value : Word) (s : State) : Host.Outcome State Fault Refusal :=
  .next (s.finish (.respond (s.setStg { s.stg with poly := value, polyW := true }) 0))

/-- SETINIT (R113). -/
def execSetinit (value : Word) (s : State) : Host.Outcome State Fault Refusal :=
  .next (s.finish (.respond (s.setStg { s.stg with init := value, initW := true }) 0))

/-- SETXOR (R114). -/
def execSetxor (value : Word) (s : State) : Host.Outcome State Fault Refusal :=
  .next (s.finish (.respond (s.setStg { s.stg with xor := value, xorW := true }) 0))

/-- A staged value masked to W bits, as CONFIG stores it (R118, D14). -/
def maskTo (w : BitVec 8) (v : Word) : Word := BitVec.ofNat 32 (v.toNat &&& mask w.toNat)

/-- The engine a successful CONFIG builds from the staged parameters (R118). -/
def buildEngine (g : Staging) (width : BitVec 8) (refin refout : Bool) : Engine :=
  { valid := true, width := width, poly := maskTo width g.poly, init := maskTo width g.init,
    xorout := maskTo width g.xor, refin := refin, refout := refout,
    table := genTable width.toNat (maskTo width g.poly).toNat }

/-- CONFIG (R115 to R118, R123): on success the new engine, and every live hasher is invalidated. -/
def execConfig (width : BitVec 8) (refin refout : Bool) (s : State) : Host.Outcome State Fault Refusal :=
  .next (s.finish (s.needParameters width (.respond (s.setEng (buildEngine s.stg width refin refout)).clearHv 0)))

/-- INFO (R125, R126). -/
def execInfo (sel : BitVec 2) (s : State) : Host.Outcome State Fault Refusal :=
  .next (s.finish
    (if sel = 0 then .respond s s.infoWord
     else s.needEngine
       (if sel = 1 then .respond s (zext64 s.eng.poly)
        else if sel = 2 then .respond s (zext64 s.eng.init)
        else .respond s (zext64 s.eng.xorout))))

/-- TABRD (R128). -/
def execTabrd (idx : BitVec 8) (s : State) : Host.Outcome State Fault Refusal :=
  .next (s.finish (s.needEngine (.respond s (zext64 (s.eng.tableAt idx)))))

end Sys2Proof.Machine
end

