-- ==== Sys2Proof/Machine/Hasher.lean ====
section
/-! DEFINITION. The hasher commands (spec/41_hasher.md): HNEW, HRST, HUPD, HUPDR, HGET, HFREE. -/

namespace Sys2Proof.Machine

/-- HNEW (R140): a slot that is already live is overwritten. -/
def execHnew (h : BitVec 8) (s : State) : Host.Outcome State Fault Refusal :=
  .next (s.finish (s.needEngine (s.needSlot h (.respond ((s.setCur h s.eng.init).setHv h true) 0))))

/-- HRST (R141). -/
def execHrst (h : BitVec 8) (s : State) : Host.Outcome State Fault Refusal :=
  .next (s.finish (s.needLive h (.respond (s.setCur h s.eng.init) 0)))

/-- HUPD (R145). -/
def execHupd (h : BitVec 8) (byte : Byte) (s : State) : Host.Outcome State Fault Refusal :=
  .next (s.finish (s.needLive h (.respond (s.setCur h (s.eng.crcStep (s.curAt h) byte)) 0)))

/-- HUPDR (R150, R151): the range is checked before any byte is consumed. -/
def execHupdr (h : BitVec 8) (offset length : Word) (s : State) : Host.Outcome State Fault Refusal :=
  .next (s.finish (s.needLive h (s.needRange offset.toNat length.toNat
    (.respond (s.setCur h (s.crcChain (s.curAt h) offset.toNat length.toNat)) 0))))

/-- HGET (R155, R156). -/
def execHget (h : BitVec 8) (s : State) : Host.Outcome State Fault Refusal :=
  .next (s.finish (s.needLive h (.respond s (s.eng.finalize (s.curAt h)))))

/-- HFREE (R158): CUR[H] keeps its bits. -/
def execHfree (h : BitVec 8) (s : State) : Host.Outcome State Fault Refusal :=
  .next (s.finish (s.needLive h (.respond (s.setHv h false) 0)))

end Sys2Proof.Machine
end

