-- ==== Sys2Proof/Machine/Reflection.lean ====
section
/-! DEFINITION. The reflection command (spec/42_reflection.md): REVB. -/

namespace Sys2Proof.Machine

/-- REVB (R181, R182): needs no engine and no hasher. -/
def execRevb (nbits : BitVec 6) (value : Long) (s : State) : Host.Outcome State Fault Refusal :=
  .next (s.finish (.respond s (BitVec.ofNat 64 (reverseBits value.toNat nbits.toNat))))

end Sys2Proof.Machine
end

