-- ==== Sys2Proof/Machine/Dispatch.lean ====
section
/-! DEFINITION. The dispatch of a decoded command to its meaning: one arm per constructor of Instr, in the table's order
(spec/30_encoding.md R90). -/

namespace Sys2Proof.Machine

/-- The effect of an accepted command (R82): the block's next state with the command's response pending. -/
def exec (i : Instr) (s : State) : Host.Outcome State Fault Refusal :=
  match i with
  -- engine (40_engine.md)
  | .nop => Sys2Proof.Machine.execNop s
  | .setpoly value => Sys2Proof.Machine.execSetpoly value s
  | .setinit value => Sys2Proof.Machine.execSetinit value s
  | .setxor value => Sys2Proof.Machine.execSetxor value s
  | .config width refin refout => Sys2Proof.Machine.execConfig width refin refout s
  | .info sel => Sys2Proof.Machine.execInfo sel s
  | .tabrd idx => Sys2Proof.Machine.execTabrd idx s
  -- hasher (41_hasher.md)
  | .hnew h => Sys2Proof.Machine.execHnew h s
  | .hrst h => Sys2Proof.Machine.execHrst h s
  | .hupd h byte => Sys2Proof.Machine.execHupd h byte s
  | .hupdr h offset length => Sys2Proof.Machine.execHupdr h offset length s
  | .hget h => Sys2Proof.Machine.execHget h s
  | .hfree h => Sys2Proof.Machine.execHfree h s
  -- buffer and reflection (41_hasher.md, 42_reflection.md)
  | .bufwr cnt offset data => Sys2Proof.Machine.execBufwr cnt offset data s
  | .revb nbits value => Sys2Proof.Machine.execRevb nbits value s

end Sys2Proof.Machine
end

