-- ==== Sys2Proof/Machine/Port.lean ====
section
/-! DEFINITION. The command port at one rising edge of clk (spec/30_encoding.md R81, R84; 70_reset_and_hazards.md R230,
R232): hardware reset, delivery of the pending response, or acceptance and execution of a beat. Waiting cycles (LATENCY, the
time to cmd_ready) are not steps: no rule depends on time (R240; log 8). -/

namespace Sys2Proof.Machine

/-- Run one accepted beat: Decode runs before any other check (R91, R220); a rejected beat raises ILLEGAL_COMMAND and
changes nothing (R92, R93, R206). -/
def runBeat (b : Beat) (s : State) : Host.Outcome State Fault Refusal :=
  match decode b with
  | .ok i => exec i s
  | .error _ => .next (s.finish (.raise .illegalCommand))

/-- What the host drives to offer beat `b`. -/
def Pins.offer (b : Beat) : Pins :=
  { rstN := true, cmdValid := true, cmdWord := b.cmd, cmdArg := b.arg, rspReady := false }

/-- What the host drives to take a response. -/
def Pins.take : Pins := { rstN := true, cmdValid := false, cmdWord := 0, cmdArg := 0, rspReady := true }

/-- The beat on the command port. -/
def Pins.beat (p : Pins) : Beat := { cmd := p.cmdWord, arg := p.cmdArg }

/-- One rising edge at which the host drives `p`: reset first (R230); while BUSY a pending response is delivered when
rsp_ready = 1 and held otherwise (R81(d)); when cmd_ready = 1 an offered beat is accepted (R81(a)) and executed; else nothing. -/
def clockEdge (p : Pins) (s : State) : Host.Outcome State Fault Refusal :=
  if !p.rstN then .next s.hardReset
  else if s.cmdReady p then
    if p.cmdValid then runBeat p.beat s.accept else .next s
  else
    match s.port.pend with
    | some r => if p.rspReady then .next (s.deliver r) else .next s
    | none => .next s

/-- The next rising edge: what the host drives next, and nothing (rst_n = 1, cmd_valid = 0, rsp_ready = 0) when it has
nothing more to drive, so the block waits (R83, R233, U9; log 10). -/
def nextEdge (s : State) : Host.Outcome State Fault Refusal :=
  match s.host.edges with
  | [] => .next s
  | p :: rest => clockEdge p (s.setEdges rest)

/-- The block idle and beat `b` offered at the next rising edge, before whatever the host drives later. -/
def State.withBeat (s : State) (b : Beat) : State :=
  { s with port := Port.idle, host := { s.host with edges := Pins.offer b :: s.host.edges } }

/-- One transaction at the level of R82: the state after beat `b` with the port idle again, and the response. -/
def transact (b : Beat) (s : State) : Option (State × Response) :=
  match runBeat b s.accept with
  | .next t =>
    match t.port.pend with
    | some r => some ({ t with port := Port.idle }, r)
    | none => none
  | .fault _ => none
  | .refused _ => none

/-- A run (R248): the beats in acceptance order, the state each leaves being the state the next reads (R70, R82); the final
state and the responses in order. -/
def runBeats : List Beat → State → Option (State × List Response)
  | [], s => some (s, [])
  | b :: rest, s =>
    match transact b s with
    | some (t, r) =>
      match runBeats rest t with
      | some (u, rs) => some (u, r :: rs)
      | none => none
    | none => none

/-- The edges of a host that offers each beat and takes its response. -/
def hostScript (bs : List Beat) : List Pins := bs.flatMap fun b => [Pins.offer b, Pins.take]

end Sys2Proof.Machine
end

