-- ==== Sys2Proof/Machine/Step.lean ====
section
/-! DEFINITION. The step of the machine: one rising edge of clk at which the port acts (spec/30_encoding.md R81, R82), and
where the host's next command is placed. -/

namespace Sys2Proof.Machine

/-- One step: the next rising edge. -/
def step (s : State) : Host.Outcome State Fault Refusal := nextEdge s

/-- The instruction whose table bits are `w` offered on the command port at the next edge, the port idle (log 10). -/
def State.withFetchWord (s : State) (nbits w : Nat) : State := s.withBeat (beatOfTableWord nbits w)

end Sys2Proof.Machine
end

