-- ==== Sys2Proof/Safety.lean ====
section
/-! DEFINITION. What holds in every state the block can reach (spec/10_state.md R44, with the forms the model adds), in the
terms the statements use. -/

namespace Sys2Proof.Machine

/-- A value fits in the engine's W bits: v < 2^W. -/
def Engine.fits (e : Engine) (v : Word) : Prop := v.toNat < 2 ^ e.width.toNat

/-- R44(a): ENG_VALID = 1 exactly with ENG_WIDTH in {8, 16, 32}, ENG_VALID = 0 exactly with ENG_WIDTH = 0. -/
def Engine.widthInv (e : Engine) : Prop :=
  (e.valid = true ↔ widthSupported e.width = true) ∧ (e.valid = false ↔ e.width = 0)

/-- R44(c) and (d) for the engine registers: all below 2^W, and TABLE is GenEntry of the engine's own parameters. -/
def Engine.valueInv (e : Engine) : Prop :=
  e.fits e.poly ∧ e.fits e.init ∧ e.fits e.xorout ∧
  (e.valid = true → ∀ d : BitVec 8, e.fits (e.tableAt d) ∧
    (e.tableAt d).toNat = genEntry e.width.toNat e.poly.toNat d.toNat)

/-- R44(b) and (c) for the slots: a live slot needs an engine and holds a W-bit value. -/
def State.slotInv (s : State) : Prop :=
  ∀ h : BitVec 8, s.hvAt h = true → s.eng.valid = true ∧ s.eng.fits (s.curAt h)

/-- The invariants (a) to (d) of R44. -/
def State.BlockInv (s : State) : Prop := s.eng.widthInv ∧ s.eng.valueInv ∧ s.slotInv

/-- No slot at or above NUM_HASHERS is valid: those slots do not exist (R22; log 6). -/
def State.slotRangeInv (s : State) : Prop := ∀ h : BitVec 8, s.hvAt h = true → h.toNat < s.params.numHashers

/-- BUF in canonical form, every listed address inside BUF (log 7). -/
def State.bufInv (s : State) : Prop :=
  Memory.wf s.buf ∧ ∀ a, s.bufWritten a = true → a < s.params.bufBytes

/-- BUSY = 1 exactly while a response is pending (R43, with execution inside the accepting step: log 8). -/
def State.portInv (s : State) : Prop := s.port.busy = s.port.pend.isSome

/-- What the model's own forms add to R44. -/
def State.FormInv (s : State) : Prop := s.slotRangeInv ∧ s.bufInv ∧ s.portInv

/-- The state after hardware reset except for what R45 leaves unspecified (TABLE, CUR, the bytes of BUF). -/
def State.IsReset (s : State) : Prop :=
  s.eng.valid = false ∧ s.eng.width = 0 ∧ s.eng.poly = 0 ∧ s.eng.init = 0 ∧ s.eng.xorout = 0 ∧
  s.eng.refin = false ∧ s.eng.refout = false ∧ s.stg.poly = 0 ∧ s.stg.init = 0 ∧ s.stg.xor = 0 ∧
  s.stg.polyW = false ∧ s.stg.initW = false ∧ s.stg.xorW = false ∧ (∀ h, s.hvAt h = false) ∧
  (∀ a, s.bufWritten a = false) ∧ s.port = Port.idle

/-- Two states that may differ only in what no command can observe: TABLE while ENG_VALID = 0 (R30, U1) and CUR of slots
whose valid bit is 0 (R34, U2). -/
def SameObservable (s t : State) : Prop :=
  t = { s with eng := { s.eng with table := t.eng.table }, cur := t.cur } ∧
  (s.eng.valid = true → t.eng.table = s.eng.table) ∧ (∀ h, s.hvAt h = true → t.curAt h = s.curAt h)

/-! ### The statuses a command may raise, in the terms of R204, R205, R210, R211 -/

/-- The commands that need an engine (R210). -/
def needsEngine : Instr → Bool
  | .info sel => sel != 0
  | .tabrd _ | .hnew _ | .hrst _ | .hupd _ _ | .hupdr _ _ _ | .hget _ | .hfree _ => true
  | .nop | .setpoly _ | .setinit _ | .setxor _ | .config _ _ _ | .bufwr _ _ _ | .revb _ _ => false

/-- NO_HASHER's causes: H ≥ NUM_HASHERS, and HV[H] = 0 for the commands that use a live slot (R211). -/
def badSlot (s : State) : Instr → Bool
  | .hnew h => decide (h.toNat ≥ s.params.numHashers)
  | .hrst h | .hupd h _ | .hupdr h _ _ | .hget h | .hfree h =>
    decide (h.toNat ≥ s.params.numHashers) || !s.hvAt h
  | .nop | .setpoly _ | .setinit _ | .setxor _ | .config _ _ _ | .info _ | .tabrd _ | .bufwr _ _ _ | .revb _ _ => false

/-- INVALID_PARAMETER's causes (R204). -/
def badParameter (s : State) : Instr → Bool
  | .config w _ _ =>
    !(decide (w.toNat = 8) || decide (w.toNat = 16) || decide (w.toNat = 32))
      || !s.stg.polyW || !s.stg.initW || !s.stg.xorW
  | .nop | .setpoly _ | .setinit _ | .setxor _ | .info _ | .tabrd _ | .hnew _ | .hrst _ | .hupd _ _ | .hupdr _ _ _
  | .hget _ | .hfree _ | .bufwr _ _ _ | .revb _ _ => false

/-- INDEX_OUT_OF_RANGE's causes, the sums without wrap (R205). -/
def badRange (s : State) : Instr → Bool
  | .hupdr _ offset length => decide (offset.toNat + length.toNat > s.params.bufBytes)
  | .bufwr cnt offset _ => decide (offset.toNat + cnt.toNat + 1 > s.params.bufBytes)
  | .nop | .setpoly _ | .setinit _ | .setxor _ | .config _ _ _ | .info _ | .tabrd _ | .hnew _ | .hrst _ | .hupd _ _
  | .hget _ | .hfree _ | .revb _ _ => false

/-- The first status that applies to a decoded command, in R220's order after ILLEGAL_COMMAND. -/
def firstStatus (s : State) (i : Instr) : Status :=
  if needsEngine i && !s.eng.valid then .notConfigured
  else if badSlot s i then .noHasher
  else if badParameter s i then .invalidParameter
  else if badRange s i then .indexOutOfRange
  else .ok

/-! ### Terms of the statements -/

/-- Opcode `op` encodes the commands `i b`, of the beats whose reserved bits are zero (`zeros b`); a beat of that opcode with
a reserved bit set raises ILLEGAL_COMMAND and changes nothing (R87, R90, R93). -/
def EncodedAs (op : BitVec 8) (zeros : Beat → Prop) (i : Beat → Instr) : Prop :=
  ∀ b : Beat, b.cmd.extractLsb' 24 8 = op →
    (zeros b → decode b = .ok (i b)) ∧
    (¬ zeros b → ∀ s, runBeat b s = .next (s.present { status := .illegalCommand, data := 0 }))

/-- The commands of a list executed in order, or `none` where one does not answer a next state. -/
def execAll : List Instr → State → Option State
  | [], s => some s
  | i :: rest, s =>
    match exec i s with
    | .next t => execAll rest t
    | .fault _ => none
    | .refused _ => none

/-- GenEntry with the register masked to W bits after every step, R121's W-bit generator. -/
def maskedGenSteps (w p : Nat) : Nat → Nat → Nat
  | 0, reg => reg
  | n + 1, reg => maskedGenSteps w p n (genStep w p reg &&& mask w)

/-- The table entry of R121's W-bit generator. -/
def maskedGenEntry (w p d : Nat) : Nat := maskedGenSteps w p 8 ((d <<< (w - 8)) &&& mask w)

/-- Every byte of BUF and its written bit are unchanged. -/
def State.SameBuffer (s t : State) : Prop := ∀ a, t.memRead a = s.memRead a ∧ t.bufWritten a = s.bufWritten a

/-- Every accumulator and valid bit is unchanged. -/
def State.SameSlots (s t : State) : Prop := ∀ h, t.curAt h = s.curAt h ∧ t.hvAt h = s.hvAt h

/-- The instance's parameters, the draw of the unwritten bytes, the host's side and BUSY are unchanged. -/
def State.SameRest (s t : State) : Prop :=
  t.params = s.params ∧ t.bufDraw = s.bufDraw ∧ t.host = s.host ∧ t.port.busy = s.port.busy

/-- What every hasher-slot command naming slot `h` leaves unchanged: every other slot, the engine and staging registers, BUF,
and the rest (R22, R47). -/
def State.OnlySlot (s t : State) (h : BitVec 8) : Prop :=
  (∀ k, k ≠ h → t.curAt k = s.curAt k ∧ t.hvAt k = s.hvAt k) ∧ t.eng = s.eng ∧ t.stg = s.stg ∧
  s.SameBuffer t ∧ s.SameRest t

/-- The slot a command names (R22). -/
def slotOf : Instr → Option (BitVec 8)
  | .hnew h | .hrst h | .hupd h _ | .hupdr h _ _ | .hget h | .hfree h => some h
  | .nop | .setpoly _ | .setinit _ | .setxor _ | .config _ _ _ | .info _ | .tabrd _ | .bufwr _ _ _ | .revb _ _ => none

/-- The commands that change no state (R68). -/
def readsOnly : Instr → Bool
  | .nop | .info _ | .tabrd _ | .hget _ | .revb _ _ => true
  | .setpoly _ | .setinit _ | .setxor _ | .config _ _ _ | .hnew _ | .hrst _ | .hupd _ _ | .hupdr _ _ _ | .hfree _
  | .bufwr _ _ _ => false

end Sys2Proof.Machine
end

