-- ==== Sys2Proof/Certificates/Slice0/Obligations.lean ====
section
/-! DEFINITION. The statements for the provers. Each docstring names the rule or section of spec/ it formalises. -/

open Sys2Proof Sys2Proof.Machine

/-! ### Encoding (30_encoding.md) -/

/-- 30_encoding.md sections 2 and 3: decoding the encoding of a well-formed command gives it back, every operand at every
value its field admits. -/
def Obligations.DecodeOfEncodeIsInstr : Prop :=
  ∀ i : Instr, i.wf = true → decode (encode i) = .ok i

/-- 30_encoding.md sections 2 and 3, 92_eei_decisions.md D7 ("one encoding per meaning"): a beat that decodes is the
encoding of what it decodes to, which is well-formed. -/
def Obligations.EncodeOfDecodeIsBeat : Prop :=
  ∀ (b : Beat) (i : Instr), decode b = .ok i → i.wf = true ∧ encode i = b

/-- R98: the worked encodings, both ways. -/
def Obligations.WorkedEncodingsDecode : Prop :=
  (encode (.config 32 true true) = ⟨0x04000320, 0x0000000000000000⟩ ∧
    decode ⟨0x04000320, 0x0000000000000000⟩ = .ok (.config 32 true true)) ∧
  (encode (.bufwr 3 0 0x34333231) = ⟨0x20000003, 0x3433323100000000⟩ ∧
    decode ⟨0x20000003, 0x3433323100000000⟩ = .ok (.bufwr 3 0 0x34333231)) ∧
  (encode (.hupdr 0 0 9) = ⟨0x13000000, 0x0000000900000000⟩ ∧
    decode ⟨0x13000000, 0x0000000900000000⟩ = .ok (.hupdr 0 0 9)) ∧
  (encode (.revb 32 0x04C11DB7) = ⟨0x30000020, 0x0000000004C11DB7⟩ ∧
    decode ⟨0x30000020, 0x0000000004C11DB7⟩ = .ok (.revb 32 0x04C11DB7))

/-- 30_encoding.md section 3, opcode map: every unassigned opcode is illegal, and a beat with one changes nothing. -/
def Obligations.UnassignedOpcodeIsIllegal : Prop :=
  ∀ (b : Beat) (o : Nat), o = (b.cmd.extractLsb' 24 8).toNat →
    (o = 0x06 ∨ o = 0x07 ∨ (0x09 ≤ o ∧ o ≤ 0x0F) ∨ (0x16 ≤ o ∧ o ≤ 0x1F) ∨ (0x21 ≤ o ∧ o ≤ 0x2F) ∨ 0x31 ≤ o) →
    decode b = .error .unassignedOpcode ∧
    ∀ s : State, runBeat b s = .next (s.present { status := .illegalCommand, data := 0 })

/-! ### Statuses and errors (60_exceptions.md) -/

/-- R220 with the causes R204, R205, R210, R211 (`firstStatus`): every accepted beat answers, and reports the first status
that applies: ILLEGAL_COMMAND, NOT_CONFIGURED, NO_HASHER, INVALID_PARAMETER or INDEX_OUT_OF_RANGE, else OK. -/
def Obligations.StatusIsFirstThatApplies : Prop :=
  ∀ (b : Beat) (s : State), ∃ t r, runBeat b s = .next t ∧ t.port.pend = some r ∧
    r.status = match decode b with
      | .error _ => .illegalCommand
      | .ok i => firstStatus s i

/-- 60_exceptions.md section 1: a command that raises a status other than OK leaves every piece of state as it was and only
its response is pending (R203), and DATA is 0 (R202). The last clause, that once the response is delivered cmd_ready is 1
whenever rst_n = 1, is the model's own reading of R81(b) and R217 (log 9, DEDUCED). -/
def Obligations.ErrorLeavesStateUnchanged : Prop :=
  ∀ (b : Beat) (s t : State) (r : Response), runBeat b s = .next t → t.port.pend = some r → r.status ≠ .ok →
    t = s.present r ∧ r.data = 0 ∧ ∀ p : Pins, (t.deliver r).cmdReady p = p.rstN

/-! ### Engine commands (40_engine.md) -/

/-- R110: NOP. -/
def Obligations.NopAnswersOk : Prop :=
  EncodedAs 0x00 (fun b => b.cmd.extractLsb' 0 24 = 0 ∧ b.arg = 0) (fun _ => .nop) ∧
  ∀ s : State, exec .nop s = .next (s.present { status := .ok, data := 0 })

/-- R112: SETPOLY. -/
def Obligations.SetpolyLoadsStagingPolynomial : Prop :=
  EncodedAs 0x01 (fun b => b.cmd.extractLsb' 0 24 = 0 ∧ b.arg.extractLsb' 32 32 = 0)
    (fun b => .setpoly (b.arg.extractLsb' 0 32)) ∧
  ∀ (v : Word) (s : State), exec (.setpoly v) s =
    .next { s with stg := { s.stg with poly := v, polyW := true },
                   port := { s.port with pend := some { status := .ok, data := 0 } } }

/-- R113: SETINIT. -/
def Obligations.SetinitLoadsStagingInitialValue : Prop :=
  EncodedAs 0x02 (fun b => b.cmd.extractLsb' 0 24 = 0 ∧ b.arg.extractLsb' 32 32 = 0)
    (fun b => .setinit (b.arg.extractLsb' 0 32)) ∧
  ∀ (v : Word) (s : State), exec (.setinit v) s =
    .next { s with stg := { s.stg with init := v, initW := true },
                   port := { s.port with pend := some { status := .ok, data := 0 } } }

/-- R114: SETXOR. -/
def Obligations.SetxorLoadsStagingFinalXor : Prop :=
  EncodedAs 0x03 (fun b => b.cmd.extractLsb' 0 24 = 0 ∧ b.arg.extractLsb' 32 32 = 0)
    (fun b => .setxor (b.arg.extractLsb' 0 32)) ∧
  ∀ (v : Word) (s : State), exec (.setxor v) s =
    .next { s with stg := { s.stg with xor := v, xorW := true },
                   port := { s.port with pend := some { status := .ok, data := 0 } } }

/-- R116, R117: CONFIG's two checks; a failing CONFIG changes nothing. -/
def Obligations.ConfigRejectsBadParameters : Prop :=
  ∀ (w : BitVec 8) (refin refout : Bool) (s : State),
    ((w ≠ 8 ∧ w ≠ 16 ∧ w ≠ 32) ∨ s.stg.polyW = false ∨ s.stg.initW = false ∨ s.stg.xorW = false) →
    exec (.config w refin refout) s = .next (s.present { status := .invalidParameter, data := 0 })

/-- R118: CONFIG's effect when both checks pass, as one step; CUR, BUF and the staging registers are unchanged. -/
def Obligations.ConfigBuildsEngine : Prop :=
  EncodedAs 0x04 (fun b => b.cmd.extractLsb' 10 14 = 0 ∧ b.arg = 0)
    (fun b => .config (b.cmd.extractLsb' 0 8) (b.cmd.getLsbD 8) (b.cmd.getLsbD 9)) ∧
  ∀ (w : BitVec 8) (refin refout : Bool) (s : State), (w = 8 ∨ w = 16 ∨ w = 32) →
    s.stg.polyW = true → s.stg.initW = true → s.stg.xorW = true →
    ∃ t, exec (.config w refin refout) s = .next t ∧
      t.eng.valid = true ∧ t.eng.width = w ∧
      t.eng.poly.toNat = s.stg.poly.toNat &&& (2 ^ w.toNat - 1) ∧
      t.eng.init.toNat = s.stg.init.toNat &&& (2 ^ w.toNat - 1) ∧
      t.eng.xorout.toNat = s.stg.xor.toNat &&& (2 ^ w.toNat - 1) ∧
      t.eng.refin = refin ∧ t.eng.refout = refout ∧
      (∀ d : BitVec 8, (t.eng.tableAt d).toNat =
        genEntry w.toNat (s.stg.poly.toNat &&& (2 ^ w.toNat - 1)) d.toNat) ∧
      (∀ h, t.hvAt h = false ∧ t.curAt h = s.curAt h) ∧ t.stg = s.stg ∧ s.SameBuffer t ∧ s.SameRest t ∧
      t.port.pend = some { status := .ok, data := 0 }

/-- 40_engine.md section 3 (the table-entry function): GenEntry is below 2^W, is 0 for d = 0 and for a zero polynomial, and
is P & Mask(W) for d = 1. -/
def Obligations.GenEntryShape : Prop :=
  ∀ w p d : Nat, (w = 8 ∨ w = 16 ∨ w = 32) → d < 256 →
    genEntry w p d < 2 ^ w ∧ genEntry w p 0 = 0 ∧ genEntry w 0 d = 0 ∧ genEntry w p 1 = p &&& (2 ^ w - 1)

/-- R121: the missing re-mask inside GenEntry cannot be observed, and bits of P at or above W do not change GenEntry. -/
def Obligations.GenEntryMaskIsUnobservable : Prop :=
  ∀ w p d : Nat, (w = 8 ∨ w = 16 ∨ w = 32) → d < 256 →
    maskedGenEntry w p d = genEntry w p d ∧ genEntry w (p &&& (2 ^ w - 1)) d = genEntry w p d

/-- R122: TABLE after a successful CONFIG depends only on (W, ENG_POLY). -/
def Obligations.TableIsDeterminedByWidthAndPolynomial : Prop :=
  ∀ (w : BitVec 8) (ri ro ri' ro' : Bool) (s s' : State), (w = 8 ∨ w = 16 ∨ w = 32) →
    s.stg.allWritten = true → s'.stg.allWritten = true →
    s.stg.poly.toNat &&& (2 ^ w.toNat - 1) = s'.stg.poly.toNat &&& (2 ^ w.toNat - 1) →
    ∃ t t', exec (.config w ri ro) s = .next t ∧ exec (.config w ri' ro') s' = .next t' ∧ t.eng.table = t'.eng.table

/-- R125: INFO, with its example, the word right after hardware reset. -/
def Obligations.InfoReadsParameters : Prop :=
  EncodedAs 0x05 (fun b => b.cmd.extractLsb' 2 22 = 0 ∧ b.arg = 0) (fun b => .info (b.cmd.extractLsb' 0 2)) ∧
  ∀ s : State,
    exec (.info 0) s = .next (s.present { status := .ok, data := s.infoWord }) ∧
    (s.eng.valid = false → ∀ sel : BitVec 2, sel ≠ 0 →
      exec (.info sel) s = .next (s.present { status := .notConfigured, data := 0 })) ∧
    (s.eng.valid = true →
      exec (.info 1) s = .next (s.present { status := .ok, data := s.eng.poly.setWidth 64 }) ∧
      exec (.info 2) s = .next (s.present { status := .ok, data := s.eng.init.setWidth 64 }) ∧
      exec (.info 3) s = .next (s.present { status := .ok, data := s.eng.xorout.setWidth 64 })) ∧
    (∀ p : Params, (State.resetWith p).infoWord =
      BitVec.ofNat 64 (p.bufBytes <<< 32 ||| (p.numHashers - 1) <<< 24))

/-- R126: the INFO SEL = 0 word, field by field. -/
def Obligations.InfoWordFields : Prop :=
  ∀ s : State, ∃ v : Long, exec (.info 0) s = .next (s.present { status := .ok, data := v }) ∧
    v.extractLsb' 0 8 = s.eng.width ∧ v.getLsbD 8 = s.eng.refin ∧ v.getLsbD 9 = s.eng.refout ∧
    v.extractLsb' 10 5 = 0 ∧ v.getLsbD 15 = s.eng.valid ∧ v.getLsbD 16 = s.stg.polyW ∧ v.getLsbD 17 = s.stg.initW ∧
    v.getLsbD 18 = s.stg.xorW ∧ v.extractLsb' 19 5 = 0 ∧
    (v.extractLsb' 24 8).toNat = s.params.numHashers - 1 ∧ (v.extractLsb' 32 32).toNat = s.params.bufBytes

/-- R128: TABRD, with TABRD 0 always 0 and TABRD 1 ENG_POLY in every state with R44's invariants. -/
def Obligations.TabrdReadsTable : Prop :=
  EncodedAs 0x08 (fun b => b.cmd.extractLsb' 8 16 = 0 ∧ b.arg = 0) (fun b => .tabrd (b.cmd.extractLsb' 0 8)) ∧
  ∀ (idx : BitVec 8) (s : State),
    (s.eng.valid = true →
      exec (.tabrd idx) s = .next (s.present { status := .ok, data := (s.eng.tableAt idx).setWidth 64 })) ∧
    (s.eng.valid = false → exec (.tabrd idx) s = .next (s.present { status := .notConfigured, data := 0 })) ∧
    (s.eng.valid = true → s.BlockInv →
      exec (.tabrd 0) s = .next (s.present { status := .ok, data := 0 }) ∧
      exec (.tabrd 1) s = .next (s.present { status := .ok, data := s.eng.poly.setWidth 64 }))

/-- R127 (and 20_memory.md section 3 for NOP, TABRD, HGET, REVB): the commands that change no state. After the command only
its response is pending; the transaction ends in the state it began in, so it can be repeated with the same result. -/
def Obligations.ReadersLeaveStateUnchanged : Prop :=
  ∀ (i : Instr) (s : State), readsOnly i = true →
    (∃ r, exec i s = .next (s.present r)) ∧
    ∀ b : Beat, decode b = .ok i → s.port = Port.idle → ∃ r, transact b s = some (s, r)

/-! ### Hasher commands (41_hasher.md) -/

/-- R140: HNEW. -/
def Obligations.HnewCreatesHasher : Prop :=
  EncodedAs 0x10 (fun b => b.cmd.extractLsb' 0 16 = 0 ∧ b.arg = 0) (fun b => .hnew (b.cmd.extractLsb' 16 8)) ∧
  ∀ (h : BitVec 8) (s : State),
    (s.eng.valid = true → h.toNat < s.params.numHashers →
      ∃ t, exec (.hnew h) s = .next t ∧ t.curAt h = s.eng.init ∧ t.hvAt h = true ∧ s.OnlySlot t h ∧
        t.port.pend = some { status := .ok, data := 0 }) ∧
    (s.eng.valid = false → exec (.hnew h) s = .next (s.present { status := .notConfigured, data := 0 })) ∧
    (s.eng.valid = true → h.toNat ≥ s.params.numHashers →
      exec (.hnew h) s = .next (s.present { status := .noHasher, data := 0 }))

/-- R141: HRST. -/
def Obligations.HrstRestoresInitialValue : Prop :=
  EncodedAs 0x11 (fun b => b.cmd.extractLsb' 0 16 = 0 ∧ b.arg = 0) (fun b => .hrst (b.cmd.extractLsb' 16 8)) ∧
  ∀ (h : BitVec 8) (s : State),
    (s.eng.valid = true → h.toNat < s.params.numHashers → s.hvAt h = true →
      ∃ t, exec (.hrst h) s = .next t ∧ t.curAt h = s.eng.init ∧ t.hvAt h = true ∧ s.OnlySlot t h ∧
        t.port.pend = some { status := .ok, data := 0 }) ∧
    (s.eng.valid = false → exec (.hrst h) s = .next (s.present { status := .notConfigured, data := 0 })) ∧
    (s.eng.valid = true → (h.toNat ≥ s.params.numHashers ∨ s.hvAt h = false) →
      exec (.hrst h) s = .next (s.present { status := .noHasher, data := 0 }))

/-- R145: HUPD, with its fixed point: a zero byte on a zero accumulator leaves 0 in every state with R44's invariants. -/
def Obligations.HupdFoldsOneByte : Prop :=
  EncodedAs 0x12 (fun b => b.cmd.extractLsb' 8 8 = 0 ∧ b.arg = 0)
    (fun b => .hupd (b.cmd.extractLsb' 16 8) (b.cmd.extractLsb' 0 8)) ∧
  ∀ (h : BitVec 8) (byte : Byte) (s : State),
    (s.eng.valid = true → h.toNat < s.params.numHashers → s.hvAt h = true →
      ∃ t, exec (.hupd h byte) s = .next t ∧ t.curAt h = s.eng.crcStep (s.curAt h) byte ∧ t.hvAt h = true ∧
        s.OnlySlot t h ∧ t.port.pend = some { status := .ok, data := 0 } ∧
        (s.BlockInv → s.curAt h = 0 → byte = 0 → t.curAt h = 0)) ∧
    (s.eng.valid = false → exec (.hupd h byte) s = .next (s.present { status := .notConfigured, data := 0 })) ∧
    (s.eng.valid = true → (h.toNat ≥ s.params.numHashers ∨ s.hvAt h = false) →
      exec (.hupd h byte) s = .next (s.present { status := .noHasher, data := 0 }))

/-- R143: properties (a) to (d) of CrcStep; `val` is the byte, reflected when ENG_REFIN = 1. -/
def Obligations.CrcStepProperties : Prop :=
  (∀ (e : Engine) (c : Word) (b : Byte), (e.crcStep c b).toNat < 2 ^ e.width.toNat) ∧
  (∀ (e e' : Engine) (c : Word) (b : Byte), e.width = e'.width → e.refin = e'.refin →
    (e.table = e'.table ∨
      (e.valid = true ∧ e'.valid = true ∧ e.valueInv ∧ e'.valueInv ∧ e.poly = e'.poly)) →
    e.crcStep c b = e'.crcStep c b) ∧
  (∀ (e : Engine) (c : Word) (b : Byte) (val : Nat), e.valid = true → e.valueInv → e.fits c →
    val = (if e.refin then reverseBits b.toNat 8 else b.toNat) →
    (e.width = 8 → e.crcStep c b = e.tableAt (BitVec.ofNat 8 (c.toNat ^^^ val))) ∧
    (e.width = 16 ∨ e.width = 32 → (e.crcStep c b).toNat =
      ((c.toNat <<< 8) &&& (2 ^ e.width.toNat - 1)) ^^^
        (e.tableAt (BitVec.ofNat 8 ((c.toNat >>> (e.width.toNat - 8)) ^^^ val))).toNat))

/-- 41_hasher.md section 2 ("a table entry that already encodes 8 steps of polynomial division"): the table-driven update is
eight shift-and-XOR steps of the register with the byte folded into its top. -/
def Obligations.CrcStepIsEightDivisionSteps : Prop :=
  ∀ (e : Engine) (c : Word) (b : Byte) (val : Nat), e.valid = true → e.widthInv → e.valueInv → e.fits c →
    val = (if e.refin then reverseBits b.toNat 8 else b.toNat) →
    (e.crcStep c b).toNat =
      genSteps e.width.toNat e.poly.toNat 8 (c.toNat ^^^ (val <<< (e.width.toNat - 8))) &&& (2 ^ e.width.toNat - 1)

/-- R150: HUPDR consumes BUF[OFFSET], ..., BUF[OFFSET+LENGTH-1] in order; the range is checked, without wrap, before any
byte is consumed. -/
def Obligations.HupdrFoldsBufferRange : Prop :=
  EncodedAs 0x13 (fun b => b.cmd.extractLsb' 0 16 = 0)
    (fun b => .hupdr (b.cmd.extractLsb' 16 8) (b.arg.extractLsb' 0 32) (b.arg.extractLsb' 32 32)) ∧
  ∀ (h : BitVec 8) (offset length : Word) (s : State),
    (s.eng.valid = true → h.toNat < s.params.numHashers → s.hvAt h = true →
      offset.toNat + length.toNat ≤ s.params.bufBytes →
      ∃ t, exec (.hupdr h offset length) s = .next t ∧
        t.curAt h = ((List.range length.toNat).map fun i => s.memRead (offset.toNat + i)).foldl s.eng.crcStep (s.curAt h) ∧
        t.hvAt h = true ∧ s.OnlySlot t h ∧ t.port.pend = some { status := .ok, data := 0 }) ∧
    (s.eng.valid = false →
      exec (.hupdr h offset length) s = .next (s.present { status := .notConfigured, data := 0 })) ∧
    (s.eng.valid = true → (h.toNat ≥ s.params.numHashers ∨ s.hvAt h = false) →
      exec (.hupdr h offset length) s = .next (s.present { status := .noHasher, data := 0 })) ∧
    (s.eng.valid = true → h.toNat < s.params.numHashers → s.hvAt h = true →
      offset.toNat + length.toNat > s.params.bufBytes →
      exec (.hupdr h offset length) s = .next (s.present { status := .indexOutOfRange, data := 0 }))

/-- R152: chunking invariance. One HUPDR, two HUPDRs, or one HUPD per byte leave the same CUR[H] and the same HGET result. -/
def Obligations.ChunkingInvariance : Prop :=
  ∀ (s : State) (h : BitVec 8) (o a b : Nat), s.eng.valid = true → h.toNat < s.params.numHashers → s.hvAt h = true →
    o + a + b ≤ s.params.bufBytes →
    ∃ t u w r,
      exec (.hupdr h (BitVec.ofNat 32 o) (BitVec.ofNat 32 (a + b))) s = .next t ∧
      execAll [.hupdr h (BitVec.ofNat 32 o) (BitVec.ofNat 32 a),
        .hupdr h (BitVec.ofNat 32 (o + a)) (BitVec.ofNat 32 b)] s = some u ∧
      execAll ((List.range (a + b)).map fun i => .hupd h (s.memRead (o + i))) s = some w ∧
      u.curAt h = t.curAt h ∧ w.curAt h = t.curAt h ∧
      exec (.hget h) t = .next (t.present r) ∧ exec (.hget h) u = .next (u.present r) ∧
      exec (.hget h) w = .next (w.present r)

/-- R155: HGET. -/
def Obligations.HgetFinalizes : Prop :=
  EncodedAs 0x14 (fun b => b.cmd.extractLsb' 0 16 = 0 ∧ b.arg = 0) (fun b => .hget (b.cmd.extractLsb' 16 8)) ∧
  ∀ (h : BitVec 8) (s : State),
    (s.eng.valid = true → h.toNat < s.params.numHashers → s.hvAt h = true →
      ∃ d : Long, exec (.hget h) s = .next (s.present { status := .ok, data := d }) ∧
        d = BitVec.ofNat 64 (((if s.eng.refout then reverseBits (s.curAt h).toNat s.eng.width.toNat
            else (s.curAt h).toNat) ^^^ s.eng.xorout.toNat) &&& (2 ^ s.eng.width.toNat - 1))) ∧
    (s.eng.valid = false → exec (.hget h) s = .next (s.present { status := .notConfigured, data := 0 })) ∧
    (s.eng.valid = true → (h.toNat ≥ s.params.numHashers ∨ s.hvAt h = false) →
      exec (.hget h) s = .next (s.present { status := .noHasher, data := 0 }))

/-- 41_hasher.md section 3: HGET's datum has no bit at or above W, and any one command other than CONFIG and the writers of
slot h between two HGETs of slot h leaves the response the same (HFREE of the slot is a writer too). -/
def Obligations.HgetIsStable : Prop :=
  ∀ (h : BitVec 8) (s : State), ∃ r,
    exec (.hget h) s = .next (s.present r) ∧ r.data.toNat < 2 ^ s.eng.width.toNat ∧
    ∀ (i : Instr) (t : State), (readsOnly i = true ∨ slotOf i ≠ some h) → (∀ w ri ro, i ≠ .config w ri ro) →
      exec i s = .next t → exec (.hget h) t = .next (t.present r)

/-- 60_exceptions.md section 5: finalization is invertible, so CUR[H] can be recovered from HGET's DATA. -/
def Obligations.HgetRecoversAccumulator : Prop :=
  ∀ (h : BitVec 8) (s : State), s.BlockInv → h.toNat < s.params.numHashers → s.hvAt h = true →
    ∃ d : Long, exec (.hget h) s = .next (s.present { status := .ok, data := d }) ∧
      (s.curAt h).toNat = if s.eng.refout
        then reverseBits (d.toNat ^^^ s.eng.xorout.toNat) s.eng.width.toNat
        else d.toNat ^^^ s.eng.xorout.toNat

/-- R158: HFREE; afterwards the commands that need a live slot raise NO_HASHER on it. -/
def Obligations.HfreeEndsHasher : Prop :=
  EncodedAs 0x15 (fun b => b.cmd.extractLsb' 0 16 = 0 ∧ b.arg = 0) (fun b => .hfree (b.cmd.extractLsb' 16 8)) ∧
  ∀ (h : BitVec 8) (s : State),
    (s.eng.valid = true → h.toNat < s.params.numHashers → s.hvAt h = true →
      ∃ t, exec (.hfree h) s = .next t ∧ t.hvAt h = false ∧ t.curAt h = s.curAt h ∧ s.OnlySlot t h ∧
        t.port.pend = some { status := .ok, data := 0 } ∧
        ∀ (byte : Byte) (offset length : Word),
          ∀ i ∈ [Instr.hrst h, .hupd h byte, .hupdr h offset length, .hget h, .hfree h],
            exec i t = .next (t.present { status := .noHasher, data := 0 })) ∧
    (s.eng.valid = false → exec (.hfree h) s = .next (s.present { status := .notConfigured, data := 0 })) ∧
    (s.eng.valid = true → (h.toNat ≥ s.params.numHashers ∨ s.hvAt h = false) →
      exec (.hfree h) s = .next (s.present { status := .noHasher, data := 0 }))

/-- R160: BUFWR writes its n = CNT + 1 bytes, byte k to BUF[OFFSET + k], or nothing when the range is bad. -/
def Obligations.BufwrWritesBytes : Prop :=
  EncodedAs 0x20
    (fun b => b.cmd.extractLsb' 2 22 = 0 ∧
      ∀ k, (b.cmd.extractLsb' 0 2).toNat < k → k < 4 → b.arg.extractLsb' (32 + 8 * k) 8 = 0)
    (fun b => .bufwr (b.cmd.extractLsb' 0 2) (b.arg.extractLsb' 0 32) (b.arg.extractLsb' 32 32)) ∧
  ∀ (cnt : BitVec 2) (offset data : Word) (s : State),
    (offset.toNat + (cnt.toNat + 1) ≤ s.params.bufBytes →
      ∃ t, exec (.bufwr cnt offset data) s = .next t ∧
        (∀ k, k < cnt.toNat + 1 → t.memRead (offset.toNat + k) = data.extractLsb' (8 * k) 8 ∧
          t.bufWritten (offset.toNat + k) = true) ∧
        (∀ a, a < offset.toNat ∨ offset.toNat + (cnt.toNat + 1) ≤ a →
          t.memRead a = s.memRead a ∧ t.bufWritten a = s.bufWritten a) ∧
        t.eng = s.eng ∧ t.stg = s.stg ∧ s.SameSlots t ∧ s.SameRest t ∧
        t.port.pend = some { status := .ok, data := 0 }) ∧
    (offset.toNat + (cnt.toNat + 1) > s.params.bufBytes →
      exec (.bufwr cnt offset data) s = .next (s.present { status := .indexOutOfRange, data := 0 }))

/-- R165: reset idempotence. On a live slot HRST gives exactly the state HNEW gives. -/
def Obligations.HrstEqualsHnewOnLiveSlot : Prop :=
  ∀ (h : BitVec 8) (s : State), s.eng.valid = true → h.toNat < s.params.numHashers → s.hvAt h = true →
    ∃ t, exec (.hrst h) s = .next t ∧ exec (.hnew h) s = .next t ∧ t.curAt h = s.eng.init

/-! ### Reflection (42_reflection.md) -/

/-- R180: bit i < n of the input becomes bit n-1-i of the result; the result is below 2^n. -/
def Obligations.ReverseBitsSwapsPositions : Prop :=
  ∀ v n : Nat, n ≤ 63 →
    reverseBits v n < 2 ^ n ∧ (∀ i, i < n → (reverseBits v n).testBit (n - 1 - i) = v.testBit i) ∧
    reverseBits v 0 = 0 ∧ reverseBits (v % 2 ^ n) n = reverseBits v n

/-- R181: REVB. -/
def Obligations.RevbReflectsOperand : Prop :=
  EncodedAs 0x30 (fun b => b.cmd.extractLsb' 6 18 = 0) (fun b => .revb (b.cmd.extractLsb' 0 6) b.arg) ∧
  ∀ (n : BitVec 6) (v : Long) (s : State), exec (.revb n v) s =
    .next (s.present { status := .ok, data := BitVec.ofNat 64 (reverseBits v.toNat n.toNat) })

/-- R182: REVB's corner cases (a) to (e). -/
def Obligations.RevbCornerCases : Prop :=
  (∀ (v : Long) (s : State), exec (.revb 0 v) s = .next (s.present { status := .ok, data := 0 })) ∧
  (∀ (v : Long) (s : State), exec (.revb 1 v) s =
    .next (s.present { status := .ok, data := (v.extractLsb' 0 1).setWidth 64 })) ∧
  (∀ (n : BitVec 6) (v v' : Long) (s : State), v.extractLsb' 0 63 = v'.extractLsb' 0 63 →
    ∃ d : Long, exec (.revb n v) s = .next (s.present { status := .ok, data := d }) ∧
      exec (.revb n v') s = .next (s.present { status := .ok, data := d }) ∧ d.toNat < 2 ^ n.toNat) ∧
  (∀ (b : Beat) (s : State), b.cmd.extractLsb' 24 8 = 0x30 → b.cmd.getLsbD 6 = true →
    runBeat b s = .next (s.present { status := .illegalCommand, data := 0 })) ∧
  (∀ s : State, exec (.revb 63 0x8000000000000001) s =
    .next (s.present { status := .ok, data := 0x4000000000000000 }))

/-- R183: reflection is an involution, and so are two REVB commands with the same NBITS. -/
def Obligations.ReflectionInvolution : Prop :=
  (∀ x n : Nat, n ≤ 63 → x < 2 ^ n → reverseBits (reverseBits x n) n = x) ∧
  (∀ (n : BitVec 6) (v : Long) (s : State), v.toNat < 2 ^ n.toNat →
    ∃ d : Long, exec (.revb n v) s = .next (s.present { status := .ok, data := d }) ∧
      exec (.revb n d) s = .next (s.present { status := .ok, data := v }))

/-! ### Isolation and frames -/

/-- R47: slot independence. A command that names slot h writes no other slot; the exception is CONFIG, which names no slot
and clears every HV; no other command writes a slot. -/
def Obligations.SlotIndependence : Prop :=
  ∀ (i : Instr) (s t : State), exec i s = .next t →
    (∀ h k, slotOf i = some h → k ≠ h → t.curAt k = s.curAt k ∧ t.hvAt k = s.hvAt k) ∧
    (slotOf i = none → (∀ w ri ro, i ≠ .config w ri ro) → s.SameSlots t) ∧
    (∀ w ri ro, i = .config w ri ro → t.port.pend = some { status := .ok, data := 0 } → ∀ k, t.hvAt k = false)

/-- 10_state.md section 1 ("reads and writes only the slot it names"): two states that differ only in other slots answer a
slot command with the same response and the same named slot. -/
def Obligations.SlotCommandReadsOnlyItsSlot : Prop :=
  ∀ (i : Instr) (h : BitVec 8) (s s' : State), slotOf i = some h →
    s' = { s with cur := s'.cur, hv := s'.hv } → s'.curAt h = s.curAt h → s'.hvAt h = s.hvAt h →
    ∃ t t', exec i s = .next t ∧ exec i s' = .next t' ∧ t'.port = t.port ∧ t'.curAt h = t.curAt h ∧ t'.hvAt h = t.hvAt h

/-- 10_state.md section 2 ("written only by a successful CONFIG. Every other command only reads them."): an accepted beat that
is not a successful CONFIG leaves every engine register and TABLE as they were. -/
def Obligations.EngineWrittenOnlyByConfig : Prop :=
  ∀ (b : Beat) (s t : State), runBeat b s = .next t →
    t.eng = s.eng ∨
    ((∃ w ri ro, decode b = .ok (.config w ri ro)) ∧ t.port.pend = some { status := .ok, data := 0 })

/-- R111: SETPOLY, SETINIT and SETXOR write only their staging register and its written bit. -/
def Obligations.StagingCommandsFrame : Prop :=
  ∀ (v : Word) (s t : State) (i : Instr), (i = .setpoly v ∨ i = .setinit v ∨ i = .setxor v) → exec i s = .next t →
    t.eng = s.eng ∧ s.SameSlots t ∧ s.SameBuffer t ∧ s.SameRest t ∧
    (i ≠ .setpoly v → t.stg.poly = s.stg.poly ∧ t.stg.polyW = s.stg.polyW) ∧
    (i ≠ .setinit v → t.stg.init = s.stg.init ∧ t.stg.initW = s.stg.initW) ∧
    (i ≠ .setxor v → t.stg.xor = s.stg.xor ∧ t.stg.xorW = s.stg.xorW)

/-- 40_engine.md section 3: whatever CONFIG answers, it leaves the staging registers, every CUR, BUF and the rest unchanged;
unless it answers OK it leaves the engine registers, TABLE and every HV unchanged too. -/
def Obligations.ConfigFrame : Prop :=
  ∀ (w : BitVec 8) (ri ro : Bool) (s t : State), exec (.config w ri ro) s = .next t →
    t.stg = s.stg ∧ (∀ h, t.curAt h = s.curAt h) ∧ s.SameBuffer t ∧ s.SameRest t ∧
    (t.port.pend ≠ some { status := .ok, data := 0 } → t.eng = s.eng ∧ ∀ h, t.hvAt h = s.hvAt h)

/-- 41_hasher.md sections 1 to 4 ("State written"): whatever they answer, HNEW, HRST, HUPD, HUPDR, HGET and HFREE change
nothing outside their slot; HRST, HUPD, HUPDR leave its valid bit, HFREE its accumulator, HGET both. -/
def Obligations.SlotCommandsFrame : Prop :=
  ∀ (h : BitVec 8) (byte : Byte) (offset length : Word) (s t : State),
    (∀ i ∈ [Instr.hnew h, .hrst h, .hupd h byte, .hupdr h offset length, .hget h, .hfree h],
      exec i s = .next t → s.OnlySlot t h) ∧
    (∀ i ∈ [Instr.hrst h, .hupd h byte, .hupdr h offset length, .hget h],
      exec i s = .next t → t.hvAt h = s.hvAt h) ∧
    (∀ i ∈ [Instr.hget h, .hfree h], exec i s = .next t → t.curAt h = s.curAt h)

/-- 41_hasher.md section 5 ("State written"): whatever it answers, BUFWR changes no register and no byte outside
BUF[OFFSET .. OFFSET+CNT]. -/
def Obligations.BufwrFrame : Prop :=
  ∀ (cnt : BitVec 2) (offset data : Word) (s t : State), exec (.bufwr cnt offset data) s = .next t →
    t.eng = s.eng ∧ t.stg = s.stg ∧ s.SameSlots t ∧ s.SameRest t ∧
    ∀ a, a < offset.toNat ∨ offset.toNat + byteCount cnt ≤ a →
      t.memRead a = s.memRead a ∧ t.bufWritten a = s.bufWritten a

/-- 10_state.md sections 2 and 3 (TABLE and CUR of a free slot "cannot be observed"): two states that differ only in TABLE
without an engine and in accumulators of free slots step alike, and again differ only there. -/
def Obligations.UnspecifiedStateIsUnobservable : Prop :=
  ∀ s s' t : State, SameObservable s s' → step s = .next t → ∃ t', step s' = .next t' ∧ SameObservable t t'

/-! ### The port and the step (30_encoding.md section 1, 70_reset_and_hazards.md) -/

/-- 30_encoding.md sections 1 and 3: at an edge where rst_n = 1, cmd_valid = 1 and the block is not busy, a step is the
execution of the decoded command, the edge consumed and BUSY set. That the whole execution, its response included, happens in
the accepting step is the model's choice (log 8, DESIGN CHOICE); that a block which is not busy accepts every beat offered is
the model's own reading of R81(b) and R217 (log 9, DEDUCED). -/
def Obligations.StepRunsDecodedInstruction : Prop :=
  ∀ (s : State) (p : Pins) (rest : List Pins) (i : Instr), s.host.edges = p :: rest → p.rstN = true →
    p.cmdValid = true → s.port.busy = false → decode { cmd := p.cmdWord, arg := p.cmdArg } = .ok i →
    step s = exec i (s.setEdges rest).accept

/-- R230, R232: an edge with rst_n = 0, whatever the port was doing, gives the reset state; no response is delivered, and
while rst_n = 0 cmd_ready and rsp_valid are 0. -/
def Obligations.HardwareResetAtAnyEdge : Prop :=
  ∀ (s : State) (p : Pins) (rest : List Pins), s.host.edges = p :: rest → p.rstN = false →
    s.cmdReady p = false ∧ s.rspValid p = false ∧
    ∃ t, step s = .next t ∧ t.IsReset ∧ t.params = s.params ∧ t.host.edges = rest ∧
      t.host.delivered = s.host.delivered

/-- R45: the state right after hardware reset, for every instance. -/
def Obligations.ResetStateValues : Prop :=
  State.reset.IsReset ∧ ∀ p : Params, (State.resetWith p).IsReset ∧ (State.resetWith p).params = p

/-- 30_encoding.md section 1, the handshake, in a model without waiting cycles (log 8, DESIGN CHOICE) whose block accepts
every beat offered while not busy (log 9, DEDUCED): cmd_ready implies not busy; an
accepted beat makes the block busy with a response pending; the response is held until rsp_ready = 1 and then delivered;
an edge that offers nothing to an idle block changes nothing. -/
def Obligations.PortHandshake : Prop :=
  ∀ (s : State) (p : Pins) (rest : List Pins), s.host.edges = p :: rest → p.rstN = true →
    (s.cmdReady p = true → s.port.busy = false) ∧
    (s.port.busy = false → p.cmdValid = true → ∃ t r, step s = .next t ∧ t.port = { busy := true, pend := some r } ∧
      t.host = { s.host with edges := rest }) ∧
    (s.port.busy = false → p.cmdValid = false → step s = .next (s.setEdges rest)) ∧
    (∀ r, s.port = { busy := true, pend := some r } →
      s.rspPort p = some r ∧
      (p.rspReady = false → step s = .next (s.setEdges rest)) ∧
      (p.rspReady = true → step s = .next { s with
        port := Port.idle, host := { edges := rest, delivered := s.host.delivered ++ [r] } }))

/-- 30_encoding.md section 1: cmd_word and cmd_arg have no effect except at the accepting edge (R84). The last clause, that
nothing is presented while rsp_valid = 0, is the model's form of R84's "carry no meaning" (log 17, DEDUCED). -/
def Obligations.PayloadSampledOnlyAtAcceptance : Prop :=
  ∀ (s : State) (p : Pins) (rest : List Pins) (word : Word) (arg : Long), s.host.edges = p :: rest →
    (¬ (p.rstN = true ∧ p.cmdValid = true ∧ s.cmdReady p = true) →
      step (s.setEdges ({ p with cmdWord := word, cmdArg := arg } :: rest)) = step s) ∧
    (s.rspValid p = false → s.rspPort p = none)

/-- 30_encoding.md section 1: at the transaction level the block is one total function per beat; a host that offers each beat
and takes its response gets exactly one response per accepted command, in the same order, and each command reads the state the
previous one left (R82). That each command takes exactly two edges, one offer and one take (`hostScript`), with no waiting
cycle between, is the model's choice (log 8, DESIGN CHOICE, unsafe for cycles), and that an idle block accepts each offer is
its own reading of R81(b) and R217 (log 9, DEDUCED): the hardware's LATENCY (R83) may put more edges between them. -/
def Obligations.ClockedRunIsTransactions : Prop :=
  ∀ (bs : List Beat) (s : State) (rest : List Pins), s.port = Port.idle → s.host.edges = hostScript bs ++ rest →
    ∃ t rs, runBeats bs s = some (t, rs) ∧ rs.length = bs.length ∧
      Host.Core.run Sys2Proof.core (2 * bs.length) s =
        .next { t with host := { edges := rest, delivered := s.host.delivered ++ rs } }

/-- 60_exceptions.md section 1 and 30_encoding.md section 1 (Step is total): a step always answers a next state. -/
def Obligations.StepAlwaysAnswersNext : Prop :=
  ∀ s : State, ∃ t, step s = .next t

/-! ### Invariants (10_state.md R44) -/

/-- R44: the invariants (a) to (d) are kept by every step, from any state that has them; so they hold in every state reached
from hardware reset, whatever the host drives. -/
def Obligations.BlockInvariantKept : Prop :=
  (∀ s t : State, s.BlockInv → step s = .next t → t.BlockInv) ∧
  ∀ (p : Params) (edges : List Pins) (k : Nat) (t : State),
    Host.Core.run Sys2Proof.core k { State.resetWith p with host := { edges := edges, delivered := [] } } = .next t →
    t.BlockInv

/-- R44: they hold after hardware reset, for every instance. -/
def Obligations.BlockInvariantAtReset : Prop :=
  State.reset.BlockInv ∧ ∀ p : Params, (State.resetWith p).BlockInv

/-- The model's own forms (logs 6, 7, 8), with 10_state.md section 5 and 20_memory.md section 1: no slot at or above
NUM_HASHERS is valid, BUF stays in canonical form inside its bounds, and BUSY is 1 exactly while a response is pending. -/
def Obligations.FormInvariantKept : Prop :=
  ∀ s t : State, s.FormInv → step s = .next t → t.FormInv

/-- The model's own forms hold after hardware reset, for every instance. -/
def Obligations.FormInvariantAtReset : Prop :=
  State.reset.FormInv ∧ ∀ p : Params, (State.resetWith p).FormInv
end

