-- ==== Sys2Proof/Laws/Crc.lean ====
section
/-! SUPPORT. Bounds of the CRC algorithms: every stored or returned value is below 2^W (spec/10_state.md R44(c)). -/

namespace Sys2Proof.Machine

/-- A value masked to w bits is below 2^w. -/
theorem and_mask_lt (v w : Nat) : v &&& mask w < 2 ^ w :=
  lt_of_le_of_lt Nat.and_le_right (Nat.sub_lt (Nat.two_pow_pos w) Nat.one_pos)

/-- Masking keeps the value modulo 2^w. -/
theorem and_mask (v w : Nat) : v &&& mask w = v % 2 ^ w := Nat.and_two_pow_sub_one_eq_mod v w

theorem genEntry_lt (w p d : Nat) : genEntry w p d < 2 ^ w := and_mask_lt _ _

/-- The result of CrcStep is below 2^W, for every W. -/
theorem Engine.crcStep_lt (e : Engine) (c : Word) (b : Byte) : (e.crcStep c b).toNat < 2 ^ e.width.toNat := by
  rw [Engine.crcStep, BitVec.toNat_ofNat]
  exact lt_of_le_of_lt (Nat.mod_le _ _) (and_mask_lt _ _)

/-- TABLE entry d of a generated table. -/
theorem genTable_get (w p : Nat) (d : Nat) (h : d < 256) :
    (genTable w p)[d] = BitVec.ofNat 32 (genEntry w p d) := by
  simp [genTable]

/-- The CrcStep chain is the left fold of CrcStep over the bytes in rising address order (R63). -/
theorem State.crcChain_eq_foldl (s : State) (c : Word) (off n : Nat) :
    s.crcChain c off n = ((List.range n).map fun i => s.memRead (off + i)).foldl s.eng.crcStep c := by
  induction n with
  | zero => rfl
  | succ n ih => simp [State.crcChain, ih, List.range_succ]

end Sys2Proof.Machine
end

