-- ==== Sys2Proof/Laws/State.lean ====
section
/-! SUPPORT. One lemma per field of State per update of Machine/Ops.lean, each true by unfolding the update once, and the
reads of a slot after each slot update. -/

namespace Sys2Proof.Machine

/-! ### memWrite -/

@[simp] theorem State.memWrite_params (s : State) (a : Nat) (v : Byte) : (s.memWrite a v).params = s.params := rfl
@[simp] theorem State.memWrite_eng (s : State) (a : Nat) (v : Byte) : (s.memWrite a v).eng = s.eng := rfl
@[simp] theorem State.memWrite_stg (s : State) (a : Nat) (v : Byte) : (s.memWrite a v).stg = s.stg := rfl
@[simp] theorem State.memWrite_cur (s : State) (a : Nat) (v : Byte) : (s.memWrite a v).cur = s.cur := rfl
@[simp] theorem State.memWrite_hv (s : State) (a : Nat) (v : Byte) : (s.memWrite a v).hv = s.hv := rfl
@[simp] theorem State.memWrite_buf (s : State) (a : Nat) (v : Byte) : (s.memWrite a v).buf = Memory.put s.buf a v := rfl
@[simp] theorem State.memWrite_bufDraw (s : State) (a : Nat) (v : Byte) : (s.memWrite a v).bufDraw = s.bufDraw := rfl
@[simp] theorem State.memWrite_port (s : State) (a : Nat) (v : Byte) : (s.memWrite a v).port = s.port := rfl
@[simp] theorem State.memWrite_host (s : State) (a : Nat) (v : Byte) : (s.memWrite a v).host = s.host := rfl

/-! ### setCur -/

@[simp] theorem State.setCur_params (s : State) (h : BitVec 8) (v : Word) : (s.setCur h v).params = s.params := rfl
@[simp] theorem State.setCur_eng (s : State) (h : BitVec 8) (v : Word) : (s.setCur h v).eng = s.eng := rfl
@[simp] theorem State.setCur_stg (s : State) (h : BitVec 8) (v : Word) : (s.setCur h v).stg = s.stg := rfl
@[simp] theorem State.setCur_cur (s : State) (h : BitVec 8) (v : Word) : (s.setCur h v).cur = s.cur.set h.toNat v h.isLt := rfl
@[simp] theorem State.setCur_hv (s : State) (h : BitVec 8) (v : Word) : (s.setCur h v).hv = s.hv := rfl
@[simp] theorem State.setCur_buf (s : State) (h : BitVec 8) (v : Word) : (s.setCur h v).buf = s.buf := rfl
@[simp] theorem State.setCur_bufDraw (s : State) (h : BitVec 8) (v : Word) : (s.setCur h v).bufDraw = s.bufDraw := rfl
@[simp] theorem State.setCur_port (s : State) (h : BitVec 8) (v : Word) : (s.setCur h v).port = s.port := rfl
@[simp] theorem State.setCur_host (s : State) (h : BitVec 8) (v : Word) : (s.setCur h v).host = s.host := rfl

/-! ### setHv -/

@[simp] theorem State.setHv_params (s : State) (h : BitVec 8) (v : Bool) : (s.setHv h v).params = s.params := rfl
@[simp] theorem State.setHv_eng (s : State) (h : BitVec 8) (v : Bool) : (s.setHv h v).eng = s.eng := rfl
@[simp] theorem State.setHv_stg (s : State) (h : BitVec 8) (v : Bool) : (s.setHv h v).stg = s.stg := rfl
@[simp] theorem State.setHv_cur (s : State) (h : BitVec 8) (v : Bool) : (s.setHv h v).cur = s.cur := rfl
@[simp] theorem State.setHv_hv (s : State) (h : BitVec 8) (v : Bool) : (s.setHv h v).hv = s.hv.set h.toNat v h.isLt := rfl
@[simp] theorem State.setHv_buf (s : State) (h : BitVec 8) (v : Bool) : (s.setHv h v).buf = s.buf := rfl
@[simp] theorem State.setHv_bufDraw (s : State) (h : BitVec 8) (v : Bool) : (s.setHv h v).bufDraw = s.bufDraw := rfl
@[simp] theorem State.setHv_port (s : State) (h : BitVec 8) (v : Bool) : (s.setHv h v).port = s.port := rfl
@[simp] theorem State.setHv_host (s : State) (h : BitVec 8) (v : Bool) : (s.setHv h v).host = s.host := rfl

/-! ### clearHv -/

@[simp] theorem State.clearHv_params (s : State) : (s.clearHv).params = s.params := rfl
@[simp] theorem State.clearHv_eng (s : State) : (s.clearHv).eng = s.eng := rfl
@[simp] theorem State.clearHv_stg (s : State) : (s.clearHv).stg = s.stg := rfl
@[simp] theorem State.clearHv_cur (s : State) : (s.clearHv).cur = s.cur := rfl
@[simp] theorem State.clearHv_hv (s : State) : (s.clearHv).hv = Vector.replicate 256 false := rfl
@[simp] theorem State.clearHv_buf (s : State) : (s.clearHv).buf = s.buf := rfl
@[simp] theorem State.clearHv_bufDraw (s : State) : (s.clearHv).bufDraw = s.bufDraw := rfl
@[simp] theorem State.clearHv_port (s : State) : (s.clearHv).port = s.port := rfl
@[simp] theorem State.clearHv_host (s : State) : (s.clearHv).host = s.host := rfl

/-! ### setEng -/

@[simp] theorem State.setEng_params (s : State) (e : Engine) : (s.setEng e).params = s.params := rfl
@[simp] theorem State.setEng_eng (s : State) (e : Engine) : (s.setEng e).eng = e := rfl
@[simp] theorem State.setEng_stg (s : State) (e : Engine) : (s.setEng e).stg = s.stg := rfl
@[simp] theorem State.setEng_cur (s : State) (e : Engine) : (s.setEng e).cur = s.cur := rfl
@[simp] theorem State.setEng_hv (s : State) (e : Engine) : (s.setEng e).hv = s.hv := rfl
@[simp] theorem State.setEng_buf (s : State) (e : Engine) : (s.setEng e).buf = s.buf := rfl
@[simp] theorem State.setEng_bufDraw (s : State) (e : Engine) : (s.setEng e).bufDraw = s.bufDraw := rfl
@[simp] theorem State.setEng_port (s : State) (e : Engine) : (s.setEng e).port = s.port := rfl
@[simp] theorem State.setEng_host (s : State) (e : Engine) : (s.setEng e).host = s.host := rfl

/-! ### setStg -/

@[simp] theorem State.setStg_params (s : State) (g : Staging) : (s.setStg g).params = s.params := rfl
@[simp] theorem State.setStg_eng (s : State) (g : Staging) : (s.setStg g).eng = s.eng := rfl
@[simp] theorem State.setStg_stg (s : State) (g : Staging) : (s.setStg g).stg = g := rfl
@[simp] theorem State.setStg_cur (s : State) (g : Staging) : (s.setStg g).cur = s.cur := rfl
@[simp] theorem State.setStg_hv (s : State) (g : Staging) : (s.setStg g).hv = s.hv := rfl
@[simp] theorem State.setStg_buf (s : State) (g : Staging) : (s.setStg g).buf = s.buf := rfl
@[simp] theorem State.setStg_bufDraw (s : State) (g : Staging) : (s.setStg g).bufDraw = s.bufDraw := rfl
@[simp] theorem State.setStg_port (s : State) (g : Staging) : (s.setStg g).port = s.port := rfl
@[simp] theorem State.setStg_host (s : State) (g : Staging) : (s.setStg g).host = s.host := rfl

/-! ### present -/

@[simp] theorem State.present_params (s : State) (r : Response) : (s.present r).params = s.params := rfl
@[simp] theorem State.present_eng (s : State) (r : Response) : (s.present r).eng = s.eng := rfl
@[simp] theorem State.present_stg (s : State) (r : Response) : (s.present r).stg = s.stg := rfl
@[simp] theorem State.present_cur (s : State) (r : Response) : (s.present r).cur = s.cur := rfl
@[simp] theorem State.present_hv (s : State) (r : Response) : (s.present r).hv = s.hv := rfl
@[simp] theorem State.present_buf (s : State) (r : Response) : (s.present r).buf = s.buf := rfl
@[simp] theorem State.present_bufDraw (s : State) (r : Response) : (s.present r).bufDraw = s.bufDraw := rfl
@[simp] theorem State.present_port (s : State) (r : Response) : (s.present r).port = { s.port with pend := some r } := rfl
@[simp] theorem State.present_host (s : State) (r : Response) : (s.present r).host = s.host := rfl

/-! ### accept -/

@[simp] theorem State.accept_params (s : State) : (s.accept).params = s.params := rfl
@[simp] theorem State.accept_eng (s : State) : (s.accept).eng = s.eng := rfl
@[simp] theorem State.accept_stg (s : State) : (s.accept).stg = s.stg := rfl
@[simp] theorem State.accept_cur (s : State) : (s.accept).cur = s.cur := rfl
@[simp] theorem State.accept_hv (s : State) : (s.accept).hv = s.hv := rfl
@[simp] theorem State.accept_buf (s : State) : (s.accept).buf = s.buf := rfl
@[simp] theorem State.accept_bufDraw (s : State) : (s.accept).bufDraw = s.bufDraw := rfl
@[simp] theorem State.accept_port (s : State) : (s.accept).port = { s.port with busy := true } := rfl
@[simp] theorem State.accept_host (s : State) : (s.accept).host = s.host := rfl

/-! ### deliver -/

@[simp] theorem State.deliver_params (s : State) (r : Response) : (s.deliver r).params = s.params := rfl
@[simp] theorem State.deliver_eng (s : State) (r : Response) : (s.deliver r).eng = s.eng := rfl
@[simp] theorem State.deliver_stg (s : State) (r : Response) : (s.deliver r).stg = s.stg := rfl
@[simp] theorem State.deliver_cur (s : State) (r : Response) : (s.deliver r).cur = s.cur := rfl
@[simp] theorem State.deliver_hv (s : State) (r : Response) : (s.deliver r).hv = s.hv := rfl
@[simp] theorem State.deliver_buf (s : State) (r : Response) : (s.deliver r).buf = s.buf := rfl
@[simp] theorem State.deliver_bufDraw (s : State) (r : Response) : (s.deliver r).bufDraw = s.bufDraw := rfl
@[simp] theorem State.deliver_port (s : State) (r : Response) : (s.deliver r).port = Port.idle := rfl
@[simp] theorem State.deliver_host (s : State) (r : Response) : (s.deliver r).host = { s.host with delivered := s.host.delivered ++ [r] } := rfl

/-! ### setEdges -/

@[simp] theorem State.setEdges_params (s : State) (edges : List Pins) : (s.setEdges edges).params = s.params := rfl
@[simp] theorem State.setEdges_eng (s : State) (edges : List Pins) : (s.setEdges edges).eng = s.eng := rfl
@[simp] theorem State.setEdges_stg (s : State) (edges : List Pins) : (s.setEdges edges).stg = s.stg := rfl
@[simp] theorem State.setEdges_cur (s : State) (edges : List Pins) : (s.setEdges edges).cur = s.cur := rfl
@[simp] theorem State.setEdges_hv (s : State) (edges : List Pins) : (s.setEdges edges).hv = s.hv := rfl
@[simp] theorem State.setEdges_buf (s : State) (edges : List Pins) : (s.setEdges edges).buf = s.buf := rfl
@[simp] theorem State.setEdges_bufDraw (s : State) (edges : List Pins) : (s.setEdges edges).bufDraw = s.bufDraw := rfl
@[simp] theorem State.setEdges_port (s : State) (edges : List Pins) : (s.setEdges edges).port = s.port := rfl
@[simp] theorem State.setEdges_host (s : State) (edges : List Pins) : (s.setEdges edges).host = { s.host with edges := edges } := rfl

/-! ### hardReset -/

@[simp] theorem State.hardReset_params (s : State) : (s.hardReset).params = s.params := rfl
@[simp] theorem State.hardReset_eng (s : State) : (s.hardReset).eng = Engine.reset := rfl
@[simp] theorem State.hardReset_stg (s : State) : (s.hardReset).stg = Staging.reset := rfl
@[simp] theorem State.hardReset_cur (s : State) : (s.hardReset).cur = Vector.replicate 256 0 := rfl
@[simp] theorem State.hardReset_hv (s : State) : (s.hardReset).hv = Vector.replicate 256 false := rfl
@[simp] theorem State.hardReset_buf (s : State) : (s.hardReset).buf = [] := rfl
@[simp] theorem State.hardReset_bufDraw (s : State) : (s.hardReset).bufDraw = s.bufDraw + 1 := rfl
@[simp] theorem State.hardReset_port (s : State) : (s.hardReset).port = Port.idle := rfl
@[simp] theorem State.hardReset_host (s : State) : (s.hardReset).host = s.host := rfl

/-! ### Slots after a slot update -/

@[simp] theorem State.curAt_setCur (s : State) (h k : BitVec 8) (v : Word) :
    (s.setCur h v).curAt k = if h = k then v else s.curAt k := by
  simp only [State.curAt, State.setCur, Vector.getElem_set, BitVec.toNat_inj]

@[simp] theorem State.hvAt_setHv (s : State) (h k : BitVec 8) (v : Bool) :
    (s.setHv h v).hvAt k = if h = k then v else s.hvAt k := by
  simp only [State.hvAt, State.setHv, Vector.getElem_set, BitVec.toNat_inj]

@[simp] theorem State.hvAt_setCur (s : State) (h k : BitVec 8) (v : Word) : (s.setCur h v).hvAt k = s.hvAt k := rfl
@[simp] theorem State.curAt_setHv (s : State) (h k : BitVec 8) (v : Bool) : (s.setHv h v).curAt k = s.curAt k := rfl
@[simp] theorem State.curAt_clearHv (s : State) (k : BitVec 8) : s.clearHv.curAt k = s.curAt k := rfl
@[simp] theorem State.hvAt_clearHv (s : State) (k : BitVec 8) : s.clearHv.hvAt k = false := by
  simp [State.hvAt, State.clearHv]
@[simp] theorem State.hvAt_hardReset (s : State) (k : BitVec 8) : s.hardReset.hvAt k = false := by
  simp [State.hvAt]

@[simp] theorem State.curAt_memWrite (s : State) (a : Nat) (v : Byte) (k : BitVec 8) : (s.memWrite a v).curAt k = s.curAt k := rfl
@[simp] theorem State.hvAt_memWrite (s : State) (a : Nat) (v : Byte) (k : BitVec 8) : (s.memWrite a v).hvAt k = s.hvAt k := rfl
@[simp] theorem State.curAt_setEng (s : State) (e : Engine) (k : BitVec 8) : (s.setEng e).curAt k = s.curAt k := rfl
@[simp] theorem State.hvAt_setEng (s : State) (e : Engine) (k : BitVec 8) : (s.setEng e).hvAt k = s.hvAt k := rfl
@[simp] theorem State.curAt_setStg (s : State) (g : Staging) (k : BitVec 8) : (s.setStg g).curAt k = s.curAt k := rfl
@[simp] theorem State.hvAt_setStg (s : State) (g : Staging) (k : BitVec 8) : (s.setStg g).hvAt k = s.hvAt k := rfl
@[simp] theorem State.curAt_present (s : State) (r : Response) (k : BitVec 8) : (s.present r).curAt k = s.curAt k := rfl
@[simp] theorem State.hvAt_present (s : State) (r : Response) (k : BitVec 8) : (s.present r).hvAt k = s.hvAt k := rfl
@[simp] theorem State.curAt_accept (s : State) (k : BitVec 8) : (s.accept).curAt k = s.curAt k := rfl
@[simp] theorem State.hvAt_accept (s : State) (k : BitVec 8) : (s.accept).hvAt k = s.hvAt k := rfl
@[simp] theorem State.curAt_deliver (s : State) (r : Response) (k : BitVec 8) : (s.deliver r).curAt k = s.curAt k := rfl
@[simp] theorem State.hvAt_deliver (s : State) (r : Response) (k : BitVec 8) : (s.deliver r).hvAt k = s.hvAt k := rfl
@[simp] theorem State.curAt_setEdges (s : State) (edges : List Pins) (k : BitVec 8) : (s.setEdges edges).curAt k = s.curAt k := rfl
@[simp] theorem State.hvAt_setEdges (s : State) (edges : List Pins) (k : BitVec 8) : (s.setEdges edges).hvAt k = s.hvAt k := rfl

/-! ### Buffer reads after an update that does not write the buffer -/

@[simp] theorem State.memRead_setCur (s : State) (h : BitVec 8) (v : Word) (k : Nat) : (s.setCur h v).memRead k = s.memRead k := rfl
@[simp] theorem State.bufWritten_setCur (s : State) (h : BitVec 8) (v : Word) (k : Nat) : (s.setCur h v).bufWritten k = s.bufWritten k := rfl
@[simp] theorem State.memRead_setHv (s : State) (h : BitVec 8) (v : Bool) (k : Nat) : (s.setHv h v).memRead k = s.memRead k := rfl
@[simp] theorem State.bufWritten_setHv (s : State) (h : BitVec 8) (v : Bool) (k : Nat) : (s.setHv h v).bufWritten k = s.bufWritten k := rfl
@[simp] theorem State.memRead_clearHv (s : State) (k : Nat) : (s.clearHv).memRead k = s.memRead k := rfl
@[simp] theorem State.bufWritten_clearHv (s : State) (k : Nat) : (s.clearHv).bufWritten k = s.bufWritten k := rfl
@[simp] theorem State.memRead_setEng (s : State) (e : Engine) (k : Nat) : (s.setEng e).memRead k = s.memRead k := rfl
@[simp] theorem State.bufWritten_setEng (s : State) (e : Engine) (k : Nat) : (s.setEng e).bufWritten k = s.bufWritten k := rfl
@[simp] theorem State.memRead_setStg (s : State) (g : Staging) (k : Nat) : (s.setStg g).memRead k = s.memRead k := rfl
@[simp] theorem State.bufWritten_setStg (s : State) (g : Staging) (k : Nat) : (s.setStg g).bufWritten k = s.bufWritten k := rfl
@[simp] theorem State.memRead_present (s : State) (r : Response) (k : Nat) : (s.present r).memRead k = s.memRead k := rfl
@[simp] theorem State.bufWritten_present (s : State) (r : Response) (k : Nat) : (s.present r).bufWritten k = s.bufWritten k := rfl
@[simp] theorem State.memRead_accept (s : State) (k : Nat) : (s.accept).memRead k = s.memRead k := rfl
@[simp] theorem State.bufWritten_accept (s : State) (k : Nat) : (s.accept).bufWritten k = s.bufWritten k := rfl
@[simp] theorem State.memRead_deliver (s : State) (r : Response) (k : Nat) : (s.deliver r).memRead k = s.memRead k := rfl
@[simp] theorem State.bufWritten_deliver (s : State) (r : Response) (k : Nat) : (s.deliver r).bufWritten k = s.bufWritten k := rfl
@[simp] theorem State.memRead_setEdges (s : State) (edges : List Pins) (k : Nat) : (s.setEdges edges).memRead k = s.memRead k := rfl
@[simp] theorem State.bufWritten_setEdges (s : State) (edges : List Pins) (k : Nat) : (s.setEdges edges).bufWritten k = s.bufWritten k := rfl

/-! ### How a command ends -/

@[simp] theorem State.finish_raise (s : State) (st : Status) :
    s.finish (.raise st) = s.present { status := st, data := 0 } := rfl
@[simp] theorem State.finish_respond (s t : State) (v : Long) :
    s.finish (.respond t v) = t.present { status := .ok, data := v } := rfl

end Sys2Proof.Machine
end

