-- ==== Sys2Proof/Laws/Memory.lean ====
section
/-! SUPPORT. The byte memory: a read after a write, and that every operation keeps the canonical form. -/

namespace Sys2Proof.Machine

/-- A read after a write gives the byte written at its address and the old byte elsewhere. -/
theorem Memory.get?_put (m : List Host.Cell) (a k : Nat) (v : Byte) :
    Memory.get? (Memory.put m a v) k = if a = k then some v else Memory.get? m k := by
  induction m with
  | nil => simp [Memory.put, Memory.get?]
  | cons c rest ih =>
    obtain ⟨k', w⟩ := c
    simp only [Memory.put]
    split
    · simp [Memory.get?]
    · split
      · subst_vars; simp only [Memory.get?]; split <;> rfl
      · simp only [Memory.get?, ih]
        split
        · rw [if_neg (by omega)]
        · rfl

/-- The addresses of a write are the old ones and the written one. -/
theorem Memory.mem_put (m : List Host.Cell) (a k : Nat) (v : Byte)
    (h : k ∈ (Memory.put m a v).map Prod.fst) : k = a ∨ k ∈ m.map Prod.fst := by
  induction m with
  | nil => simpa [Memory.put] using h
  | cons c rest ih =>
    obtain ⟨k', w⟩ := c
    simp only [Memory.put] at h
    split at h
    · simpa using h
    · split at h
      · subst_vars; simp only [List.map_cons, List.mem_cons] at h ⊢; tauto
      · simp only [List.map_cons, List.mem_cons] at h ⊢
        rcases h with h | h
        · exact .inr (.inl h)
        · rcases ih h with h | h
          · exact .inl h
          · exact .inr (.inr h)

/-- A write keeps the canonical form. -/
theorem Memory.wf_put (m : List Host.Cell) (a : Nat) (v : Byte) (hm : Memory.wf m) : Memory.wf (Memory.put m a v) := by
  induction m with
  | nil => simp [Memory.put, Memory.wf]
  | cons c rest ih =>
    obtain ⟨k', w⟩ := c
    have hc := List.pairwise_cons.mp hm
    simp only [Memory.put]
    split
    · next hlt =>
      refine List.pairwise_cons.mpr ⟨fun x hx => ?_, hm⟩
      rcases List.mem_cons.mp hx with rfl | hx
      · exact hlt
      · exact lt_trans hlt (hc.1 x hx)
    · split
      · subst_vars; exact hm
      · refine List.pairwise_cons.mpr ⟨fun x hx => ?_, ih hc.2⟩
        rcases Memory.mem_put rest a x v hx with rfl | hx
        · show k' < x
          omega
        · exact hc.1 x hx

/-- The empty memory is in canonical form. -/
theorem Memory.wf_nil : Memory.wf [] := List.Pairwise.nil

/-- MemRead after MemWrite. -/
theorem State.memRead_memWrite (s : State) (a k : Nat) (v : Byte) :
    (s.memWrite a v).memRead k = if a = k then v else s.memRead k := by
  simp only [State.memRead, State.memWrite_buf, State.memWrite_bufDraw, Memory.get?_put]
  by_cases h : a = k <;> simp [h]

/-- BUF_WRITTEN after MemWrite. -/
theorem State.bufWritten_memWrite (s : State) (a k : Nat) (v : Byte) :
    (s.memWrite a v).bufWritten k = (decide (a = k) || s.bufWritten k) := by
  simp only [State.bufWritten, State.memWrite_buf, Memory.get?_put]
  split <;> simp_all

end Sys2Proof.Machine
end

