-- ==== Sys2Proof/Laws/Guards.lean ====
section
/-! SUPPORT. What the status checks and the multi-byte buffer operations can do, once each: a guard either lets the rest of
the command through or raises its one status, and BUFWR's loop writes exactly its bytes. -/

namespace Sys2Proof.Machine

/-- A live slot exists and its valid bit is 1. -/
theorem State.live_iff (s : State) (h : BitVec 8) :
    s.live h = true ↔ h.toNat < s.params.numHashers ∧ s.hvAt h = true := by
  simp [State.live]

theorem State.needEngine_cases (s : State) (r : Result) :
    (s.eng.valid = true ∧ s.needEngine r = r) ∨ (s.eng.valid = false ∧ s.needEngine r = .raise .notConfigured) := by
  cases h : s.eng.valid <;> simp [State.needEngine, h]

theorem State.needSlot_cases (s : State) (h : BitVec 8) (r : Result) :
    (h.toNat < s.params.numHashers ∧ s.needSlot h r = r) ∨
    (s.params.numHashers ≤ h.toNat ∧ s.needSlot h r = .raise .noHasher) := by
  unfold State.needSlot
  split <;> simp_all

theorem State.needLive_cases (s : State) (h : BitVec 8) (r : Result) :
    (s.eng.valid = true ∧ s.live h = true ∧ s.needLive h r = r) ∨
    (s.eng.valid = false ∧ s.needLive h r = .raise .notConfigured) ∨
    (s.eng.valid = true ∧ s.live h = false ∧ s.needLive h r = .raise .noHasher) := by
  cases hv : s.eng.valid <;> cases hl : s.live h <;> simp [State.needLive, State.needEngine, hv, hl]

theorem State.needRange_cases (s : State) (off n : Nat) (r : Result) :
    (off + n ≤ s.params.bufBytes ∧ s.needRange off n r = r) ∨
    (s.params.bufBytes < off + n ∧ s.needRange off n r = .raise .indexOutOfRange) := by
  by_cases h : off + n ≤ s.params.bufBytes
  · exact .inl ⟨h, by simp [State.needRange, State.inRange, h]⟩
  · exact .inr ⟨by omega, by simp [State.needRange, State.inRange, h]⟩

theorem State.needParameters_cases (s : State) (w : BitVec 8) (r : Result) :
    (widthSupported w = true ∧ s.stg.allWritten = true ∧ s.needParameters w r = r) ∨
    ((widthSupported w = false ∨ s.stg.allWritten = false) ∧ s.needParameters w r = .raise .invalidParameter) := by
  cases hw : widthSupported w <;> cases hg : s.stg.allWritten <;> simp [State.needParameters, hw, hg]

/-- BUFWR's loop changes only the buffer. -/
theorem State.writeBytes_eq (s : State) (off : Nat) (data : Word) (n : Nat) :
    s.writeBytes off data n = { s with buf := (s.writeBytes off data n).buf } := by
  induction n with
  | zero => rfl
  | succ n ih => simp only [State.writeBytes, State.memWrite]; rw [ih]

/-- After BUFWR's loop, byte k < n of the data is at off + k and every other address reads as before. -/
theorem State.memRead_writeBytes (s : State) (off : Nat) (data : Word) (n a : Nat) :
    (s.writeBytes off data n).memRead a =
      if off ≤ a ∧ a < off + n then dataByte data (a - off) else s.memRead a := by
  induction n with
  | zero => simp [State.writeBytes]
  | succ n ih =>
    rw [State.writeBytes, State.memRead_memWrite, ih]
    by_cases h : off + n = a
    · subst h; simp
    · rw [if_neg h]
      by_cases h2 : off ≤ a ∧ a < off + n
      · rw [if_pos h2, if_pos (by omega)]
      · rw [if_neg h2, if_neg (by omega)]

/-- After BUFWR's loop, exactly the addresses written before and the n written ones are written. -/
theorem State.bufWritten_writeBytes (s : State) (off : Nat) (data : Word) (n a : Nat) :
    (s.writeBytes off data n).bufWritten a = (decide (off ≤ a ∧ a < off + n) || s.bufWritten a) := by
  induction n with
  | zero => simp [State.writeBytes]
  | succ n ih =>
    rw [State.writeBytes, State.bufWritten_memWrite, ih]
    rw [← Bool.or_assoc]
    congr 1
    rw [← Bool.decide_or]
    congr 1
    apply propext
    omega

/-- BUFWR's loop keeps the buffer's canonical form. -/
theorem State.wf_writeBytes (s : State) (off : Nat) (data : Word) (n : Nat) (hm : Memory.wf s.buf) :
    Memory.wf (s.writeBytes off data n).buf := by
  induction n with
  | zero => exact hm
  | succ n ih => exact Memory.wf_put _ _ _ ih

end Sys2Proof.Machine
end

