-- ==== Sys2Proof/Laws/Engine.lean ====
section
/-! SUPPORT. The engine a successful CONFIG builds has R44's engine invariants, whatever was staged. -/

namespace Sys2Proof.Machine

/-- A staged value masked to W bits is below 2^W. -/
theorem maskTo_lt (w : BitVec 8) (v : Word) : (maskTo w v).toNat < 2 ^ w.toNat := by
  rw [maskTo, BitVec.toNat_ofNat]
  exact lt_of_le_of_lt (Nat.mod_le _ _) (and_mask_lt _ _)

/-- TABLE of a built engine is GenEntry of its own polynomial (R44(d)). -/
theorem buildEngine_tableAt (g : Staging) (w : BitVec 8) (refin refout : Bool) (hw : widthSupported w = true)
    (d : BitVec 8) :
    ((buildEngine g w refin refout).tableAt d).toNat = genEntry w.toNat (maskTo w g.poly).toNat d.toNat := by
  simp only [Engine.tableAt, buildEngine, genTable_get, BitVec.toNat_ofNat]
  apply Nat.mod_eq_of_lt
  refine lt_of_lt_of_le (genEntry_lt _ _ _) (Nat.pow_le_pow_right (by norm_num) ?_)
  simp only [widthSupported, Bool.or_eq_true, beq_iff_eq] at hw
  rcases hw with (h | h) | h <;> simp [h]

/-- R44(c) and (d) for a built engine. -/
theorem buildEngine_valueInv (g : Staging) (w : BitVec 8) (refin refout : Bool) (hw : widthSupported w = true) :
    (buildEngine g w refin refout).valueInv := by
  refine ⟨maskTo_lt _ _, maskTo_lt _ _, maskTo_lt _ _, fun _ d => ?_⟩
  have h := buildEngine_tableAt g w refin refout hw d
  exact ⟨by unfold Engine.fits; rw [h]; exact genEntry_lt _ _ _, h⟩

/-- R44(a) for a built engine. -/
theorem buildEngine_widthInv (g : Staging) (w : BitVec 8) (refin refout : Bool) (hw : widthSupported w = true) :
    (buildEngine g w refin refout).widthInv := by
  refine ⟨by simp [buildEngine, hw], ?_⟩
  have h0 : w ≠ 0 := by rintro rfl; simp [widthSupported] at hw
  simp only [buildEngine]
  exact ⟨fun h => absurd h (by simp), fun h => absurd h h0⟩

/-- The result of CrcStep fits in W bits. -/
theorem Engine.fits_crcStep (e : Engine) (c : Word) (b : Byte) : e.fits (e.crcStep c b) := e.crcStep_lt c b

end Sys2Proof.Machine
end

