-- ==== Sys2Proof/Laws/Exec.lean ====
section
/-! SUPPORT. What executing a command can do, once: it ends as one of the results of its pseudocode (raise or respond), and
what runs around it at the port. -/

namespace Sys2Proof.Machine

/-- Every command answers a next state: the state finished with some result of its pseudocode. -/
theorem exec_finishes (i : Instr) (s : State) : ∃ r : Result, exec i s = .next (s.finish r) := by
  cases i <;> exact ⟨_, rfl⟩

/-- Finishing leaves exactly one response pending: the raised status with DATA 0, or OK with the command's datum. -/
theorem State.finish_pend (s : State) (r : Result) :
    ∃ p : Response, (s.finish r).port.pend = some p ∧
      (∀ st, r = .raise st → p = { status := st, data := 0 }) ∧
      (∀ t v, r = .respond t v → p = { status := .ok, data := v }) := by
  cases r with
  | raise st => exact ⟨_, rfl, by simp, by simp⟩
  | respond t v => exact ⟨_, rfl, by simp, by simp⟩

theorem runBeat_of_decode {b : Beat} {i : Instr} (h : decode b = .ok i) (s : State) : runBeat b s = exec i s := by
  simp [runBeat, h]

theorem runBeat_of_error {b : Beat} {e : DecodeError} (h : decode b = .error e) (s : State) :
    runBeat b s = .next (s.present { status := .illegalCommand, data := 0 }) := by
  simp [runBeat, h]

/-- A rising edge does one of six things. -/
theorem clockEdge_cases (p : Pins) (s : State) :
    (p.rstN = false ∧ clockEdge p s = .next s.hardReset) ∨
    (p.rstN = true ∧ s.port.busy = false ∧ p.cmdValid = true ∧ clockEdge p s = runBeat p.beat s.accept) ∨
    (p.rstN = true ∧ s.port.busy = false ∧ p.cmdValid = false ∧ clockEdge p s = .next s) ∨
    (∃ r, p.rstN = true ∧ s.port.busy = true ∧ s.port.pend = some r ∧ p.rspReady = true ∧
      clockEdge p s = .next (s.deliver r)) ∨
    (∃ r, p.rstN = true ∧ s.port.busy = true ∧ s.port.pend = some r ∧ p.rspReady = false ∧ clockEdge p s = .next s) ∨
    (p.rstN = true ∧ s.port.busy = true ∧ s.port.pend = none ∧ clockEdge p s = .next s) := by
  cases hr : p.rstN <;> cases hb : s.port.busy <;> cases hv : p.cmdValid <;> cases hp : s.port.pend <;>
    cases hy : p.rspReady <;> simp [clockEdge, State.cmdReady, hr, hb, hv, hp, hy]

theorem step_nil {s : State} (h : s.host.edges = []) : step s = .next s := by
  simp [step, nextEdge, h]

theorem step_cons {s : State} {p : Pins} {rest : List Pins} (h : s.host.edges = p :: rest) :
    step s = clockEdge p (s.setEdges rest) := by
  simp [step, nextEdge, h]

end Sys2Proof.Machine
end

