-- ==== Sys2Proof/Laws/PerInstr.lean ====
section
/-! SUPPORT. A statement per instruction, about the instruction as syntax: its encoding carries the opcode that the opcode
map of spec/30_encoding.md R90 gives its mnemonic. -/

namespace Sys2Proof.Laws.EncodedOpcode

/-- The OPCODE column of R90. -/
def opcodeOf : Instr → BitVec 8
  | .nop => 0x00
  | .setpoly _ => 0x01
  | .setinit _ => 0x02
  | .setxor _ => 0x03
  | .config _ _ _ => 0x04
  | .info _ => 0x05
  | .tabrd _ => 0x08
  | .hnew _ => 0x10
  | .hrst _ => 0x11
  | .hupd _ _ => 0x12
  | .hupdr _ _ _ => 0x13
  | .hget _ => 0x14
  | .hfree _ => 0x15
  | .bufwr _ _ _ => 0x20
  | .revb _ _ => 0x30

/-- CMD[31:24] of the encoding is the opcode of R90. -/
def Statement (i : Instr) : Prop := (encode i).opcode = opcodeOf i

theorem nop : Statement .nop := by
  simp only [Statement, encode, Beat.opcode, opcodeOf]; decide
theorem setpoly (v : Word) : Statement (.setpoly v) := by
  simp only [Statement, encode, Beat.opcode, opcodeOf]; decide
theorem setinit (v : Word) : Statement (.setinit v) := by
  simp only [Statement, encode, Beat.opcode, opcodeOf]; decide
theorem setxor (v : Word) : Statement (.setxor v) := by
  simp only [Statement, encode, Beat.opcode, opcodeOf]; decide
theorem config (w : BitVec 8) (refin refout : Bool) : Statement (.config w refin refout) := by
  simp only [Statement, opcodeOf]
  ext i hi; simp [encode, Beat.opcode, inCmd]; interval_cases i <;> simp
theorem info (sel : BitVec 2) : Statement (.info sel) := by
  simp only [Statement, opcodeOf]
  ext i hi; simp [encode, Beat.opcode, inCmd]; interval_cases i <;> simp
theorem tabrd (idx : BitVec 8) : Statement (.tabrd idx) := by
  simp only [Statement, opcodeOf]
  ext i hi; simp [encode, Beat.opcode, inCmd]; interval_cases i <;> simp
theorem hnew (h : BitVec 8) : Statement (.hnew h) := by
  simp only [Statement, opcodeOf]
  ext i hi; simp [encode, Beat.opcode, inCmd]; interval_cases i <;> simp
theorem hrst (h : BitVec 8) : Statement (.hrst h) := by
  simp only [Statement, opcodeOf]
  ext i hi; simp [encode, Beat.opcode, inCmd]; interval_cases i <;> simp
theorem hupd (h byte : BitVec 8) : Statement (.hupd h byte) := by
  simp only [Statement, opcodeOf]
  ext i hi; simp [encode, Beat.opcode, inCmd]; interval_cases i <;> simp
theorem hupdr (h : BitVec 8) (offset length : Word) : Statement (.hupdr h offset length) := by
  simp only [Statement, opcodeOf]
  ext i hi; simp [encode, Beat.opcode, inCmd]; interval_cases i <;> simp
theorem hget (h : BitVec 8) : Statement (.hget h) := by
  simp only [Statement, opcodeOf]
  ext i hi; simp [encode, Beat.opcode, inCmd]; interval_cases i <;> simp
theorem hfree (h : BitVec 8) : Statement (.hfree h) := by
  simp only [Statement, opcodeOf]
  ext i hi; simp [encode, Beat.opcode, inCmd]; interval_cases i <;> simp
theorem bufwr (cnt : BitVec 2) (offset data : Word) : Statement (.bufwr cnt offset data) := by
  simp only [Statement, opcodeOf]
  ext i hi; simp [encode, Beat.opcode, inCmd]; interval_cases i <;> simp
theorem revb (nbits : BitVec 6) (value : Long) : Statement (.revb nbits value) := by
  simp only [Statement, opcodeOf]
  ext i hi; simp [encode, Beat.opcode, inCmd]; interval_cases i <;> simp

end Sys2Proof.Laws.EncodedOpcode
end

