-- ==== Sys2Proof/Machine/Asm.lean ====
section
/-! DEFINITION. The assembler syntax and the pseudo-instructions (spec/30_encoding.md R96, R97): a line of characters to the
commands it stands for, or an assembly error (`none`). An operand outside its range is an error, never an encoding. What the
spec leaves open of the lexical form (white space, letter case of hexadecimal digits) is a DESIGN CHOICE: log 16. -/

namespace Sys2Proof.Asm

/-- The tokens of a line: a run of other characters (a mnemonic or a number), a comma, a quoted character, a quoted text. -/
inductive Token where
  | word (cs : List Char)
  | comma
  | quoted (c : Char)
  | text (cs : List Char)
  deriving DecidableEq, Repr

/-- Where the lexer stands: outside quotes with the run read so far, or inside a text. Both hold their characters reversed. -/
inductive Mode where
  | plain (acc : List Char)
  | inText (acc : List Char)
  deriving DecidableEq, Repr

/-- The run read so far as a token before the tokens `ts`. -/
def flush (acc : List Char) (ts : List Token) : List Token :=
  if acc.isEmpty then ts else .word acc.reverse :: ts

/-- The tokens of a line, up to its end or its comment `;`. `none` for a text that is not closed. -/
def lex : Mode → List Char → Option (List Token)
  | .plain acc, [] => some (flush acc [])
  | .inText _, [] => none
  | .plain acc, '\'' :: c :: '\'' :: rest => (lex (.plain []) rest).map fun ts => flush acc (.quoted c :: ts)
  | .plain acc, c :: rest =>
    if c = ';' then some (flush acc [])
    else if c = ',' then (lex (.plain []) rest).map fun ts => flush acc (.comma :: ts)
    else if c = ' ' ∨ c = '\t' then (lex (.plain []) rest).map (flush acc)
    else if c = '"' then (lex (.inText []) rest).map (flush acc)
    else lex (.plain (c :: acc)) rest
  | .inText acc, c :: rest =>
    if c = '"' then (lex (.plain []) rest).map fun ts => .text acc.reverse :: ts
    else lex (.inText (c :: acc)) rest

/-- The value of a digit in base 10 or 16. -/
def digit (base : Nat) (c : Char) : Option Nat :=
  let n := c.toNat
  let v := if 48 ≤ n ∧ n ≤ 57 then n - 48 else if 97 ≤ n ∧ n ≤ 102 then n - 87 else if 65 ≤ n ∧ n ≤ 70 then n - 55 else 16
  if v < base then some v else none

/-- The value of a run of digits, most significant first, after the value `acc` of those already read. -/
def digits (base : Nat) : Nat → List Char → Option Nat
  | acc, [] => some acc
  | acc, c :: cs =>
    match digit base c with
    | some d => digits base (acc * base + d) cs
    | none => none

/-- A number: decimal, or hexadecimal after 0x (R96). -/
def number : List Char → Option Nat
  | [] => none
  | '0' :: 'x' :: c :: cs => digits 16 0 (c :: cs)
  | c :: cs => digits 10 0 (c :: cs)

/-- An operand. -/
inductive Operand where
  | num (n : Nat)
  | chr (n : Nat)
  | text (bytes : List Nat)
  deriving DecidableEq, Repr

/-- The code of an ASCII character. -/
def ascii (c : Char) : Option Nat := if c.toNat < 128 then some c.toNat else none

/-- One operand token. -/
def operand : Token → Option Operand
  | .word cs => (number cs).map .num
  | .quoted c => (ascii c).map .chr
  | .text cs => (cs.mapM ascii).map .text
  | .comma => none

/-- Operands separated by commas (R96). -/
def operands : List Token → Option (List Operand)
  | [] => some []
  | [t] => (operand t).map ([·])
  | t :: .comma :: t' :: rest =>
    match operand t, operands (t' :: rest) with
    | some o, some os => some (o :: os)
    | _, _ => none
  | _ :: _ => none

/-- A numeric operand of `w` bits, 0..2^w-1. -/
def field (w : Nat) : Operand → Option (BitVec w)
  | .num n => if n < 2 ^ w then some (BitVec.ofNat w n) else none
  | .chr _ | .text _ => none

/-- A byte operand: 0..255 or a quoted ASCII character (R96). -/
def byteField : Operand → Option Byte
  | .num n => if n < 256 then some (BitVec.ofNat 8 n) else none
  | .chr n => some (BitVec.ofNat 8 n)
  | .text _ => none

/-- A flag operand: 0 or 1. -/
def flag : Operand → Option Bool
  | .num 0 => some false
  | .num 1 => some true
  | _ => none

/-- DATA32 with byte k in bits 8k+7..8k and the bytes above the count zero (R96). -/
def pack : List Byte → Nat
  | [] => 0
  | b :: bs => b.toNat + 256 * pack bs

/-- BUFWR offset, b0 .. bk for 1 to 4 bytes: CNT = count - 1 (R96). -/
def bufwr (offset : Nat) (bytes : List Byte) : Option Instr :=
  if 1 ≤ bytes.length ∧ bytes.length ≤ 4 ∧ offset < 2 ^ 32 then
    some (.bufwr (BitVec.ofNat 2 (bytes.length - 1)) (BitVec.ofNat 32 offset) (BitVec.ofNat 32 (pack bytes)))
  else none

/-- BUFSTR's expansion: BUFWR of up to four bytes at offset, offset + 4, ... (R97). -/
def bufstr (offset : Nat) : List Byte → Option (List Instr)
  | [] => some []
  | b0 :: b1 :: b2 :: b3 :: rest =>
    match bufwr offset [b0, b1, b2, b3], bufstr (offset + 4) rest with
    | some i, some is => some (i :: is)
    | _, _ => none
  | b :: bs => (bufwr offset (b :: bs)).map ([·])

/-- HUPDS's expansion: one HUPD per byte (R97). -/
def hupds (h : BitVec 8) (bytes : List Byte) : List Instr := bytes.map (.hupd h)

/-- CRCDEF's expansion (R97). -/
def crcdef (width : BitVec 8) (poly init xorout : Word) (refin refout : Bool) : List Instr :=
  [.setpoly poly, .setinit init, .setxor xorout, .config width refin refout]

/-- A command whose operands are `ops`, by its upper-case mnemonic (R96), or a pseudo-instruction (R97). -/
def line (m : List Char) (ops : List Operand) : Option (List Instr) :=
  if m = ['N', 'O', 'P'] then match ops with
    | [] => some [.nop]
    | _ => none
  else if m = ['S', 'E', 'T', 'P', 'O', 'L', 'Y'] then match ops with
    | [v] => do return [.setpoly (← field 32 v)]
    | _ => none
  else if m = ['S', 'E', 'T', 'I', 'N', 'I', 'T'] then match ops with
    | [v] => do return [.setinit (← field 32 v)]
    | _ => none
  else if m = ['S', 'E', 'T', 'X', 'O', 'R'] then match ops with
    | [v] => do return [.setxor (← field 32 v)]
    | _ => none
  else if m = ['C', 'O', 'N', 'F', 'I', 'G'] then match ops with
    | [w, ri, ro] => do return [.config (← field 8 w) (← flag ri) (← flag ro)]
    | _ => none
  else if m = ['I', 'N', 'F', 'O'] then match ops with
    | [s] => do return [.info (← field 2 s)]
    | _ => none
  else if m = ['T', 'A', 'B', 'R', 'D'] then match ops with
    | [i] => do return [.tabrd (← field 8 i)]
    | _ => none
  else if m = ['H', 'N', 'E', 'W'] then match ops with
    | [h] => do return [.hnew (← field 8 h)]
    | _ => none
  else if m = ['H', 'R', 'S', 'T'] then match ops with
    | [h] => do return [.hrst (← field 8 h)]
    | _ => none
  else if m = ['H', 'U', 'P', 'D'] then match ops with
    | [h, b] => do return [.hupd (← field 8 h) (← byteField b)]
    | _ => none
  else if m = ['H', 'U', 'P', 'D', 'R'] then match ops with
    | [h, o, l] => do return [.hupdr (← field 8 h) (← field 32 o) (← field 32 l)]
    | _ => none
  else if m = ['H', 'G', 'E', 'T'] then match ops with
    | [h] => do return [.hget (← field 8 h)]
    | _ => none
  else if m = ['H', 'F', 'R', 'E', 'E'] then match ops with
    | [h] => do return [.hfree (← field 8 h)]
    | _ => none
  else if m = ['B', 'U', 'F', 'W', 'R'] then match ops with
    | o :: bs => do
      let off ← field 32 o
      return [← bufwr off.toNat (← bs.mapM byteField)]
    | [] => none
  else if m = ['R', 'E', 'V', 'B'] then match ops with
    | [v, n] => do return [.revb (← field 6 n) (← field 64 v)]
    | _ => none
  else if m = ['C', 'R', 'C', 'D', 'E', 'F'] then match ops with
    | [w, p, i, x, ri, ro] => do
      return crcdef (← field 8 w) (← field 32 p) (← field 32 i) (← field 32 x) (← flag ri) (← flag ro)
    | _ => none
  else if m = ['B', 'U', 'F', 'S', 'T', 'R'] then match ops with
    | [o, .text t] => do
      let off ← field 32 o
      bufstr off.toNat (t.map (BitVec.ofNat 8))
    | _ => none
  else if m = ['H', 'U', 'P', 'D', 'S'] then match ops with
    | h :: b :: bs => do return hupds (← field 8 h) (← (b :: bs).mapM byteField)
    | _ => none
  else none

/-- The commands a line assembles to: none for an empty or comment line, several for a pseudo-instruction (R96, R97). -/
def assemble (cs : List Char) : Option (List Instr) :=
  match lex (.plain []) cs with
  | none => none
  | some [] => some []
  | some (.word m :: rest) =>
    match operands rest with
    | some ops => line m ops
    | none => none
  | some (_ :: _) => none

end Sys2Proof.Asm
end

