-- ==== Sys2Proof/Tests/Slice0.lean ====
section
/-! SUPPORT. Tests: expected values are the spec's own, from spec/95_test_vectors.md (V-...), 30_encoding.md R98 and the
examples of the command rules; each is about one step of a small state. The last part shows, for each statement with
hypotheses, a state and operands that meet them. -/

namespace Sys2Proof.Tests

open Sys2Proof.Machine

/-! ### Helpers -/

/-- NUM_HASHERS = 4 and BUF_BYTES = 64, the parameters of 95_test_vectors.md. -/
def p4 : Params := { lastSlot := 3, lastOffset := 63 }

/-- The state after hardware reset with those parameters. -/
def r4 : State := State.resetWith p4

/-- Three staged parameters. -/
def staged (poly init xor : Word) : Staging := { poly, init, xor, polyW := true, initW := true, xorW := true }

/-- An engine configured from staged parameters, slot 0 live with accumulator `c`. -/
def engineState (g : Staging) (w : BitVec 8) (refin refout : Bool) (c : Word) : State :=
  { r4 with stg := g, eng := buildEngine g w refin refout, cur := r4.cur.set 0 c, hv := r4.hv.set 0 true }

/-- The CRC8 set with accumulator `c` in slot 0. -/
def crc8 (c : Word) : State := engineState (staged 0x07 0 0) 8 false false c

/-- The CCITT set with accumulator `c` in slot 0. -/
def ccitt (c : Word) : State := engineState (staged 0x1021 0xFFFF 0) 16 false false c

/-- The CRC32 set with accumulator `c` in slot 0. -/
def crc32 (c : Word) : State := engineState (staged 0x04C11DB7 0xFFFFFFFF 0xFFFFFFFF) 32 true true c

/-- BUF[0..8] = "123456789". -/
def digitsBuf : List Host.Cell :=
  [(0, 0x31), (1, 0x32), (2, 0x33), (3, 0x34), (4, 0x35), (5, 0x36), (6, 0x37), (7, 0x38), (8, 0x39)]

/-- The CRC32 set with slot 0 fresh and the digits in BUF. -/
def crc32Buf : State := { crc32 0xFFFFFFFF with buf := digitsBuf }

/-- A function of the state a command leaves. -/
def after {α : Type} (o : Host.Outcome State Fault Refusal) (f : State → α) : Option α :=
  match o with
  | .next t => some (f t)
  | .fault _ => none
  | .refused _ => none

/-- The response a command leaves pending. -/
def resp (o : Host.Outcome State Fault Refusal) : Option Response := (after o fun t => t.port.pend).join

/-- A response with status OK. -/
def okData (v : Long) : Option Response := some { status := .ok, data := v }

/-- A response with an error status. -/
def err (st : Status) : Option Response := some { status := st, data := 0 }

/-- A beat. -/
def beat (cmd : Word) (arg : Long) : Beat := { cmd, arg }

/-! ### Well-formedness -/

-- R93: a reserved data byte above BUFWR's count is set
theorem test_wf_bufwr_reserved_byte_refused : Instr.wf (.bufwr 0 0 0x100) = false := by decide
theorem test_wf_bufwr_all_bytes : Instr.wf (.bufwr 3 0 0xFFFFFFFF) = true := by decide

/-! ### Decoding -/

-- V-E1, and the assembler encodings of 95_test_vectors.md section 2.1, one or more per family
theorem test_decode_nop : decode (beat 0x00000000 0) = .ok .nop := by decide
theorem test_decode_setpoly : decode (beat 0x01000000 0x04C11DB7) = .ok (.setpoly 0x04C11DB7) := by decide
theorem test_decode_setinit : decode (beat 0x02000000 0xFFFFFFFF) = .ok (.setinit 0xFFFFFFFF) := by decide
theorem test_decode_setxor : decode (beat 0x03000000 0xFFFFFFFF) = .ok (.setxor 0xFFFFFFFF) := by decide
theorem test_decode_config : decode (beat 0x04000320 0) = .ok (.config 32 true true) := by decide
-- bit 8 is REFIN and bit 9 REFOUT (R86)
theorem test_decode_config_refin_only : decode (beat 0x04000110 0) = .ok (.config 16 true false) := by decide
theorem test_decode_info : decode (beat 0x05000001 0) = .ok (.info 1) := by decide
theorem test_decode_tabrd : decode (beat 0x08000031 0) = .ok (.tabrd 0x31) := by decide
theorem test_decode_hnew : decode (beat 0x10010000 0) = .ok (.hnew 1) := by decide
theorem test_decode_hrst : decode (beat 0x11010000 0) = .ok (.hrst 1) := by decide
theorem test_decode_hupd : decode (beat 0x12010031 0) = .ok (.hupd 1 0x31) := by decide
theorem test_decode_hupdr : decode (beat 0x13000000 0x0000000900000007) = .ok (.hupdr 0 7 9) := by decide
theorem test_decode_hget : decode (beat 0x14C80000 0) = .ok (.hget 200) := by decide
theorem test_decode_hfree : decode (beat 0x15000000 0) = .ok (.hfree 0) := by decide
theorem test_decode_bufwr : decode (beat 0x20000001 0x000002010000003F) = .ok (.bufwr 1 63 0x0201) := by decide
theorem test_decode_revb : decode (beat 0x30000020 0x04C11DB7) = .ok (.revb 32 0x04C11DB7) := by decide
-- V-E2 to V-E12
theorem test_decode_refuses :
    [beat 0x00000000 1, beat 0x06000000 0, beat 0xFF000000 0, beat 0x12000100 0, beat 0x140000C8 0,
      beat 0x01000000 0x100000000, beat 0x20000000 0x10000000000, beat 0x04000400 0, beat 0x05000004 0,
      beat 0x30000040 0].map decode =
    [.error .reservedArgBit, .error .unassignedOpcode, .error .unassignedOpcode, .error .reservedCmdBit,
      .error .reservedCmdBit, .error .reservedArgBit, .error .reservedArgBit, .error .reservedCmdBit,
      .error .reservedCmdBit, .error .reservedCmdBit] := by decide
-- V-E13: HUPDR's ARG has no reserved bits
theorem test_decode_hupdr_all_ones :
    decode (beat 0x13000000 0xFFFFFFFFFFFFFFFF) = .ok (.hupdr 0 0xFFFFFFFF 0xFFFFFFFF) := by decide
-- the table's numbering: CMD is bits 31..0, ARG bits 95..32
theorem test_decode_table_word : decodeTableWord 96 0x04C11DB730000020 = some (.revb 32 0x04C11DB7) := by decide
theorem test_decode_table_word_short : decodeTableWord 32 0x04C11DB730000020 = some (.revb 32 0) := by decide

/-! ### Engine commands -/

theorem test_nop : resp (exec .nop r4) = okData 0 := by decide
-- R112's example
theorem test_setpoly :
    after (exec (.setpoly 0x04C11DB7) r4) (·.stg) = some { Staging.reset with poly := 0x04C11DB7, polyW := true } := by
  decide
theorem test_setinit : after (exec (.setinit 0xFFFFFFFF) r4) (·.stg.init) = some 0xFFFFFFFF := by decide
theorem test_setxor : after (exec (.setxor 0) r4) (·.stg.xorW) = some true := by decide
-- V-C1, V-C3: nothing staged; width 24
theorem test_config_refuses :
    resp (exec (.config 8 false false) r4) = err .invalidParameter ∧
    resp (exec (.config 24 false false) (ccitt 0xC782)) = err .invalidParameter := by decide
-- V-C5: the polynomial 0x107 is masked to 0x07, and every hasher is invalidated (R118)
theorem test_config_masks :
    after (exec (.config 8 false false) { crc8 0 with stg := staged 0x107 0 0 })
      (fun t => (t.eng.poly, t.eng.width, t.hvAt 0)) = some (0x07, 8, false) := by decide
-- V-I1, V-I4
theorem test_info_word :
    resp (exec (.info 0) r4) = okData 0x0000004003000000 ∧
    resp (exec (.info 0) (crc32 0)) = okData 0x0000004003078320 := by decide
-- V-I5, V-I6
theorem test_info_parameters :
    resp (exec (.info 1) r4) = err .notConfigured ∧ resp (exec (.info 1) (crc32 0)) = okData 0x04C11DB7 ∧
    resp (exec (.info 3) (ccitt 0)) = okData 0 ∧ resp (exec (.info 2) (ccitt 0)) = okData 0xFFFF := by decide
-- V-T8; V-T1 to V-T3
theorem test_tabrd :
    resp (exec (.tabrd 0) r4) = err .notConfigured ∧ resp (exec (.tabrd 0x31) (crc8 0)) = okData 0x97 := by decide +kernel
theorem test_gen_entry :
    genEntry 8 0x07 0x80 = 0x89 ∧ genEntry 16 0x1021 0xFF = 0x1EF0 ∧ genEntry 32 0x04C11DB7 0x80 = 0x690CE0EE ∧
    genEntry 16 0x8005 0xFF = 0x0202 ∧ genEntry 32 0x04C11DB7 0x31 = 0xD0F37027 := by decide

/-! ### Hasher commands -/

-- V-X2, R140's example, V-X4
theorem test_hnew :
    resp (exec (.hnew 0) r4) = err .notConfigured ∧
    after (exec (.hnew 3) (crc32 0)) (fun t => (t.curAt 3, t.hvAt 3)) = some (0xFFFFFFFF, true) ∧
    resp (exec (.hnew 4) (crc8 0)) = err .noHasher := by decide
-- R141's example; a free slot
theorem test_hrst :
    after (exec (.hrst 0) (ccitt 0xC782)) (·.curAt 0) = some 0xFFFF ∧
    resp (exec (.hrst 1) (ccitt 0)) = err .noHasher := by decide
-- V-U2, V-U3
theorem test_hupd_ccitt :
    after (exec (.hupd 0 0x31) (ccitt 0xFFFF)) (·.curAt 0) = some 0xC782 ∧
    after (exec (.hupd 0 0x00) (ccitt 0xFFFF)) (·.curAt 0) = some 0xE1F0 := by decide +kernel
-- V-U8 (the byte is reflected), V-U7
theorem test_hupd_reflected :
    after (exec (.hupd 0 0x31) (crc32 0xFFFFFFFF)) (·.curAt 0) = some 0x1208C43E ∧
    after (exec (.hupd 0 0xFF) (crc8 0)) (·.curAt 0) = some 0xF3 := by decide +kernel
-- V-B5
theorem test_hupdr_digits : after (exec (.hupdr 0 0 9) crc32Buf) (·.curAt 0) = some 0x9B63D02C := by decide +kernel
-- V-X3, V-X6, V-B7, V-B8, V-B9, V-B10
theorem test_hupdr_range :
    [resp (exec (.hupdr 9 0xFFFFFFFF 2) r4), resp (exec (.hupdr 1 65 0) (crc8 0)), resp (exec (.hupdr 0 64 0) crc32Buf),
      resp (exec (.hupdr 0 65 0) crc32Buf), resp (exec (.hupdr 0 0xFFFFFFFF 2) crc32Buf),
      resp (exec (.hupdr 0 60 5) crc32Buf)] =
    [err .notConfigured, err .noHasher, okData 0, err .indexOutOfRange, err .indexOutOfRange, err .indexOutOfRange] := by
  decide
-- V-S1, V-F6 (reflected result), V-F7 (final XOR)
theorem test_hget :
    resp (exec (.hget 0) (crc32 0x9B63D02C)) = okData 0xCBF43926 ∧
    resp (exec (.hget 0) (engineState (staged 0x1021 0xFFFF 0) 16 false true 0x29B1)) = okData 0x8D94 ∧
    resp (exec (.hget 0) (engineState (staged 0x07 0 0x55) 8 false false 0xF4)) = okData 0xA1 := by decide
-- R158's example; V-X5
theorem test_hfree :
    after (exec (.hfree 0) (crc8 0xF4)) (fun t => (t.hvAt 0, t.curAt 0)) = some (false, 0xF4) ∧
    resp (exec (.hfree 1) (crc8 0)) = err .noHasher := by decide

/-! ### Buffer and reflection -/

-- V-B1 (little-endian) over an older byte
theorem test_bufwr_bytes :
    after (exec (.bufwr 3 0 0x34333231) { r4 with buf := [(2, 0xFF), (9, 0xAA)] }) (·.buf) =
      some [(0, 0x31), (1, 0x32), (2, 0x33), (3, 0x34), (9, 0xAA)] := by decide
-- V-B2, V-B3, V-B4
theorem test_bufwr_range :
    (resp (exec (.bufwr 1 63 0x0201) r4), after (exec (.bufwr 1 63 0x0201) r4) (·.buf)) = (err .indexOutOfRange, some []) ∧
    after (exec (.bufwr 0 63 1) r4) (·.buf) = some [(63, 1)] ∧
    resp (exec (.bufwr 3 0xFFFFFFFF 0) r4) = err .indexOutOfRange := by decide
-- V-R4, V-R9, V-R12, V-R14, V-R16
theorem test_revb :
    [resp (exec (.revb 1 2) r4), resp (exec (.revb 32 0x04C11DB7) r4), resp (exec (.revb 63 0x8000000000000001) r4),
      resp (exec (.revb 4 0x123) r4), resp (exec (.revb 5 0xFFFFFFFFFFFFFFFF) r4)] =
    [okData 0, okData 0xEDB88320, okData 0x4000000000000000, okData 0xC, okData 0x1F] := by decide

/-! ### The port and the step -/

-- R81: an offered beat is accepted, its response held, then delivered
theorem test_step_accepts :
    after (step (r4.withFetchWord 96 0x04C11DB730000020)) (·.port) =
      some { busy := true, pend := okData 0xEDB88320 } := by decide
theorem test_step_delivers :
    after (step { r4 with
      port := { busy := true, pend := okData 7 }, host := { edges := [Pins.take], delivered := [] } })
      (fun t => (t.port, t.host.delivered)) = some (Port.idle, [{ status := .ok, data := 7 }]) := by decide
-- V-X8: decoding comes first
theorem test_step_illegal :
    resp (step (r4.withBeat (beat 0x20000000 0x0000FF0000000040))) = err .illegalCommand := by decide
-- V-Z4: a reset clears the engine and the written bits
theorem test_step_reset :
    after (step { crc32 0 with host := { edges := [{ Pins.take with rstN := false }], delivered := [] } })
      (fun t => (t.eng.valid, t.stg, t.hvAt 0)) = some (false, Staging.reset, false) := by decide
-- the instance that State.reset leaves open runs its first command
theorem test_step_from_reset : resp (step (State.reset.withFetchWord 32 0x04000018)) = err .invalidParameter := by decide

/-! ### The assembler (R96, R97) -/

-- HUPD 0, '1' with a comment; INFO 4 is an assembly error
theorem test_asm_hupd :
    Asm.assemble ['H', 'U', 'P', 'D', ' ', '0', ',', ' ', '\'', '1', '\'', ' ', ';', 'x'] = some [.hupd 0 0x31] ∧
    Asm.assemble ['I', 'N', 'F', 'O', ' ', '4'] = none := by decide
-- lines 5 to 7 of program P1
theorem test_asm_bufstr :
    Asm.bufstr 0 [0x31, 0x32, 0x33, 0x34, 0x35, 0x36, 0x37, 0x38, 0x39] =
      some [.bufwr 3 0 0x34333231, .bufwr 3 4 0x38373635, .bufwr 0 8 0x39] := by decide

/-! ### Witnesses: states and operands that meet the hypotheses of the statements, at the boundaries of their ranges -/

/-- A configured engine with a fitting accumulator in the live slot has R44's invariants. -/
theorem engineState_blockInv (g : Staging) (w : BitVec 8) (refin refout : Bool) (c : Word)
    (hw : widthSupported w = true) (hc : c.toNat < 2 ^ w.toNat) : (engineState g w refin refout c).BlockInv := by
  refine ⟨buildEngine_widthInv g w refin refout hw, buildEngine_valueInv g w refin refout hw, fun h hh => ?_⟩
  have h0 : h = 0 := by
    by_contra hne
    have : h.toNat ≠ 0 := fun e => hne (BitVec.eq_of_toNat_eq (by simpa using e))
    simp [engineState, State.hvAt, r4, State.resetWith, this.symm] at hh
  subst h0
  refine ⟨rfl, ?_⟩
  simpa [Engine.fits, engineState, State.curAt, buildEngine] using hc

theorem crc8_blockInv : (crc8 0).BlockInv := engineState_blockInv _ _ _ _ _ (by decide) (by decide)
theorem ccitt_blockInv : (ccitt 0xFFFF).BlockInv := engineState_blockInv _ _ _ _ _ (by decide) (by decide)
theorem crc32_blockInv : (crc32 0xFFFFFFFF).BlockInv := engineState_blockInv _ _ _ _ _ (by decide) (by decide)

/-- The model's forms hold with the digits in BUF and slot 0 live. -/
theorem crc32Buf_formInv : crc32Buf.FormInv := by
  refine ⟨fun h hh => ?_, ⟨by decide, fun a ha => ?_⟩, rfl⟩
  · have h0 : h = 0 := by
      by_contra hne
      have : h.toNat ≠ 0 := fun e => hne (BitVec.eq_of_toNat_eq (by simpa using e))
      simp [crc32Buf, crc32, engineState, State.hvAt, r4, State.resetWith, this.symm] at hh
    subst h0; decide
  · by_contra hge
    have hb : crc32Buf.params.bufBytes = 64 := by decide
    rw [hb] at hge
    have : ∀ k : Nat, k < 9 → ¬ k = a := fun k hk => by omega
    simp [State.bufWritten, crc32Buf, digitsBuf, Memory.get?, this] at ha

theorem witness_DecodeOfEncodeIsInstr :
    Instr.wf (.bufwr 0 0xFFFFFFFF 0xFF) = true ∧ Instr.wf (.bufwr 3 0 0xFFFFFFFF) = true ∧
    Instr.wf (.hnew 255) = true := by decide
theorem witness_EncodeOfDecodeIsBeat : decode (beat 0x20000000 0x000000FF00000000) = .ok (.bufwr 0 0 0xFF) := by decide
theorem witness_UnassignedOpcodeIsIllegal :
    [0x06, 0x07, 0x09, 0x0F, 0x16, 0x1F, 0x21, 0x2F, 0x31, 0xFF].map (fun o => (beat (BitVec.ofNat 32 (o * 2 ^ 24)) 0).opcode.toNat)
      = [0x06, 0x07, 0x09, 0x0F, 0x16, 0x1F, 0x21, 0x2F, 0x31, 0xFF] := by decide
theorem witness_ErrorLeavesStateUnchanged :
    resp (runBeat (beat 0x10040000 0) (crc8 0)) = err .noHasher ∧ resp (runBeat (beat 0x06000000 0) r4) = err .illegalCommand := by
  decide
theorem witness_ConfigRejectsBadParameters :
    ((24 : BitVec 8) ≠ 8 ∧ (24 : BitVec 8) ≠ 16 ∧ (24 : BitVec 8) ≠ 32) ∧
    (r4.stg.polyW = false ∧ r4.stg.initW = false ∧ r4.stg.xorW = false) := by decide
theorem witness_ConfigBuildsEngine :
    (crc8 0).stg.polyW = true ∧ (crc8 0).stg.initW = true ∧ (crc8 0).stg.xorW = true := by decide
theorem witness_GenEntryShape : (0 < 256 ∧ 255 < 256) ∧ (8 = 8 ∨ 8 = 16 ∨ 8 = 32) := by decide
theorem witness_TableIsDeterminedByWidthAndPolynomial :
    (staged 0x107 1 2).allWritten = true ∧ (staged 0x07 0 0).allWritten = true ∧
    (staged 0x107 1 2).poly.toNat &&& (2 ^ (8 : BitVec 8).toNat - 1) =
      (staged 0x07 0 0).poly.toNat &&& (2 ^ (8 : BitVec 8).toNat - 1) := by decide
theorem witness_InfoReadsParameters : r4.eng.valid = false ∧ (crc8 0).eng.valid = true ∧ (3 : BitVec 2) ≠ 0 := by decide
theorem witness_TabrdReadsTable : (crc8 0).eng.valid = true ∧ (crc8 0).BlockInv := ⟨rfl, crc8_blockInv⟩
theorem witness_ReadersLeaveStateUnchanged :
    readsOnly (.hget 0) = true ∧ decode (beat 0x14000000 0) = .ok (.hget 0) ∧ (crc8 0).port = Port.idle := by decide
-- the hasher commands: a live slot, the last slot, the first slot that does not exist, a free slot, no engine
theorem witness_slot_commands :
    ((crc8 0).eng.valid = true ∧ (0 : BitVec 8).toNat < (crc8 0).params.numHashers ∧ (crc8 0).hvAt 0 = true) ∧
    (3 : BitVec 8).toNat < (crc8 0).params.numHashers ∧ (4 : BitVec 8).toNat ≥ (crc8 0).params.numHashers ∧
    (crc8 0).hvAt 1 = false ∧ r4.eng.valid = false := by decide
theorem witness_HupdFoldsOneByte : (crc8 0).BlockInv ∧ (crc8 0).curAt 0 = 0 := ⟨crc8_blockInv, by decide⟩
theorem witness_CrcStepProperties_same_engine :
    (buildEngine (staged 0x1021 0xFFFF 0) 16 false false).poly = (buildEngine (staged 0x11021 0 7) 16 false true).poly ∧
    (buildEngine (staged 0x1021 0xFFFF 0) 16 false false).valueInv ∧
    (buildEngine (staged 0x11021 0 7) 16 false true).valueInv :=
  ⟨by decide, buildEngine_valueInv _ _ _ _ (by decide), buildEngine_valueInv _ _ _ _ (by decide)⟩
-- also CrcStepIsEightDivisionSteps, at each width
theorem witness_CrcStepProperties :
    ((crc8 0).eng.width = 8 ∧ (crc8 0).eng.fits 0xFF) ∧ ((ccitt 0).eng.width = 16 ∧ (ccitt 0).eng.fits 0xFFFF) ∧
    ((crc32 0).eng.width = 32 ∧ (crc32 0).eng.fits 0xFFFFFFFF) := by
  simp only [Engine.fits]; decide
theorem witness_HupdrFoldsBufferRange :
    ((55 : Word).toNat + (9 : Word).toNat ≤ crc32Buf.params.bufBytes ∧
      (64 : Word).toNat + (0 : Word).toNat ≤ crc32Buf.params.bufBytes) ∧
    ((65 : Word).toNat + (0 : Word).toNat > crc32Buf.params.bufBytes ∧
      (0xFFFFFFFF : Word).toNat + (2 : Word).toNat > crc32Buf.params.bufBytes) ∧
    crc32Buf.eng.valid = true ∧ crc32Buf.hvAt 0 = true := by decide
theorem witness_ChunkingInvariance :
    crc32Buf.eng.valid = true ∧ (0 : BitVec 8).toNat < crc32Buf.params.numHashers ∧ crc32Buf.hvAt 0 = true ∧
    0 + 4 + 5 ≤ crc32Buf.params.bufBytes ∧ 60 + 0 + 4 ≤ crc32Buf.params.bufBytes := by decide
theorem witness_HgetIsStable :
    slotOf (.hupd 1 0) ≠ some 0 ∧ readsOnly (.hget 0) = true ∧ ∃ t, exec (.hupd 1 0) (crc8 0) = .next t := by
  exact ⟨by decide, by decide, _, rfl⟩
theorem witness_HgetRecoversAccumulator :
    (crc32 0xFFFFFFFF).BlockInv ∧ (0 : BitVec 8).toNat < (crc32 0xFFFFFFFF).params.numHashers ∧
    (crc32 0xFFFFFFFF).hvAt 0 = true ∧ (crc32 0xFFFFFFFF).eng.refout = true ∧ (ccitt 0xFFFF).BlockInv ∧
    (ccitt 0xFFFF).eng.refout = false :=
  ⟨crc32_blockInv, by decide, by decide, by decide, ccitt_blockInv, by decide⟩
theorem witness_BufwrWritesBytes :
    (60 : Word).toNat + ((3 : BitVec 2).toNat + 1) ≤ r4.params.bufBytes ∧
    (61 : Word).toNat + ((3 : BitVec 2).toNat + 1) > r4.params.bufBytes := by decide
theorem witness_RevbCornerCases :
    ((0x8000000000000001 : Long).extractLsb' 0 63 = (0x0000000000000001 : Long).extractLsb' 0 63) ∧
    (beat 0x30000040 0).cmd.extractLsb' 24 8 = 0x30 ∧ (beat 0x30000040 0).cmd.getLsbD 6 = true := by decide
-- also ReverseBitsSwapsPositions
theorem witness_ReflectionInvolution : 63 ≤ 63 ∧ 0x7FFFFFFFFFFFFFFF < 2 ^ 63 ∧ (1 : Long).toNat < 2 ^ (1 : BitVec 6).toNat := by
  decide
-- SlotIndependence, ConfigFrame, SlotCommandsFrame, BufwrFrame, StagingCommandsFrame, EngineWrittenOnlyByConfig
theorem witness_frames :
    (∃ t, exec (.config 8 false false) (crc8 0) = .next t ∧ t.port.pend = okData 0) ∧
    (∃ t, exec (.hupd 0 1) (crc8 0) = .next t) ∧ (∃ t, exec (.hget 0) (crc8 0) = .next t) ∧
    (∃ t, exec (.bufwr 0 63 1) r4 = .next t) ∧ (∃ t, exec (.setpoly 7) r4 = .next t) ∧
    (∃ t, runBeat (beat 0x04000008 0) (crc8 0) = .next t ∧ t.port.pend = okData 0) ∧
    slotOf (.hupd 0 1) = some 0 ∧ slotOf (.bufwr 0 63 1) = none :=
  ⟨⟨_, rfl, rfl⟩, ⟨_, rfl⟩, ⟨_, rfl⟩, ⟨_, rfl⟩, ⟨_, rfl⟩, ⟨_, rfl, rfl⟩, rfl, rfl⟩
theorem witness_SlotCommandReadsOnlyItsSlot :
    (crc8 0).setCur 1 5 = { crc8 0 with cur := ((crc8 0).setCur 1 5).cur, hv := ((crc8 0).setCur 1 5).hv } ∧
    ((crc8 0).setCur 1 5).curAt 0 = (crc8 0).curAt 0 ∧ ((crc8 0).setCur 1 5).hvAt 0 = (crc8 0).hvAt 0 :=
  ⟨rfl, by decide, by decide⟩
theorem witness_UnspecifiedStateIsUnobservable :
    SameObservable (crc8 0) ((crc8 0).setCur 1 5) ∧ ∃ t, step (crc8 0) = .next t := by
  refine ⟨⟨rfl, fun _ => rfl, fun h hh => ?_⟩, _, rfl⟩
  rw [State.curAt_setCur, if_neg]
  rintro rfl
  exact absurd hh (by decide)
-- StepRunsDecodedInstruction, PortHandshake (accepting), ClockedRunIsTransactions
theorem witness_step_accepting :
    (r4.withBeat (beat 0x05000000 0)).host.edges = [Pins.offer (beat 0x05000000 0)] ∧
    (Pins.offer (beat 0x05000000 0)).rstN = true ∧ (Pins.offer (beat 0x05000000 0)).cmdValid = true ∧
    (r4.withBeat (beat 0x05000000 0)).port.busy = false ∧ decode (beat 0x05000000 0) = .ok (.info 0) := by decide
-- PortHandshake (idle edge, held and taken response), PayloadSampledOnlyAtAcceptance, HardwareResetAtAnyEdge
theorem witness_step_other_edges :
    Pins.take.rstN = true ∧ Pins.take.cmdValid = false ∧ Pins.take.rspReady = true ∧
    (Pins.offer (beat 0 0)).rspReady = false ∧ { Pins.take with rstN := false }.rstN = false ∧ r4.rspValid Pins.take = false ∧
    ¬ (Pins.take.rstN = true ∧ Pins.take.cmdValid = true ∧ r4.cmdReady Pins.take = true) := by decide
theorem witness_ClockedRunIsTransactions :
    ({ r4 with host := { edges := hostScript [beat 0x05000000 0], delivered := [] } } : State).port = Port.idle ∧
    ({ r4 with host := { edges := hostScript [beat 0x05000000 0], delivered := [] } } : State).host.edges =
      hostScript [beat 0x05000000 0] ++ [] := by decide
theorem witness_BlockInvariantKept : (crc8 0).BlockInv ∧ ∃ t, step (crc8 0) = .next t := ⟨crc8_blockInv, _, rfl⟩
theorem witness_FormInvariantKept : crc32Buf.FormInv ∧ ∃ t, step crc32Buf = .next t := ⟨crc32Buf_formInv, _, rfl⟩

end Sys2Proof.Tests
end

/-! # Proofs of the state's statements (spec/10_state.md R44, R45, R47)

`exec_cases` says once what a command can do: raise the first status of R220 that applies, or answer OK and leave
`effect i s`. The frames and the invariants are read off it. -/

namespace Sys2Proof.Machine

/-! ## What a command does -/

/-- The state command `i` leaves when it answers OK, its response not yet presented ("State written" of 40_engine.md to
42_reflection.md). `exec_cases` ties it to `exec`. -/
def effect (i : Instr) (s : State) : State :=
  match i with
  | .nop | .info _ | .tabrd _ | .hget _ | .revb _ _ => s
  | .setpoly value => s.setStg { s.stg with poly := value, polyW := true }
  | .setinit value => s.setStg { s.stg with init := value, initW := true }
  | .setxor value => s.setStg { s.stg with xor := value, xorW := true }
  | .config width refin refout => (s.setEng (buildEngine s.stg width refin refout)).clearHv
  | .hnew h => (s.setCur h s.eng.init).setHv h true
  | .hrst h => s.setCur h s.eng.init
  | .hupd h byte => s.setCur h (s.eng.crcStep (s.curAt h) byte)
  | .hupdr h offset length => s.setCur h (s.crcChain (s.curAt h) offset.toNat length.toNat)
  | .hfree h => s.setHv h false
  | .bufwr cnt offset data => s.writeBytes offset.toNat data (byteCount cnt)

/-- CONFIG's check (R116, R117) fails exactly on R204's causes. -/
theorem badParameter_config (s : State) (w : BitVec 8) (refin refout : Bool) :
    badParameter s (.config w refin refout) = !(widthSupported w && s.stg.allWritten) := by
  simp [badParameter, widthSupported, Staging.allWritten, ← BitVec.toNat_inj, Bool.beq_eq_decide_eq, Bool.or_assoc]

/-- A slot is not live exactly on R211's causes. -/
theorem not_live_eq (s : State) (h : BitVec 8) :
    (!s.live h) = (decide (h.toNat ≥ s.params.numHashers) || !s.hvAt h) := by
  simp [State.live, ← decide_not]

/-- No status applies exactly when no error has a cause (R220). -/
theorem firstStatus_eq_ok_iff (s : State) (i : Instr) :
    firstStatus s i = .ok ↔ (needsEngine i = true → s.eng.valid = true) ∧ badSlot s i = false ∧
      badParameter s i = false ∧ badRange s i = false := by
  unfold firstStatus
  split_ifs <;> simp_all

/-- Result `r` is what command `i` must end in: the first status that applies, or OK with the command's effect (R220). -/
def Answers (i : Instr) (s : State) (r : Result) : Prop :=
  (firstStatus s i ≠ .ok ∧ r = .raise (firstStatus s i)) ∨
  (firstStatus s i = .ok ∧ ∃ d, r = .respond (effect i s) d)

section Guards
variable {i : Instr} {s : State} {r : Result}

/-- A command that raises the first status that applies answers as it must. -/
theorem Answers.raise {st : Status} (hst : st ≠ .ok) (hf : firstStatus s i = st) : Answers i s (.raise st) :=
  .inl ⟨hf ▸ hst, by rw [hf]⟩

/-- A command none of whose errors has a cause answers as it must when it responds with its effect. -/
theorem Answers.respond {d : Long} (hf : firstStatus s i = .ok) : Answers i s (.respond (effect i s) d) :=
  .inr ⟨hf, d, rfl⟩

/-- The engine check comes first (R220). -/
theorem Answers.needEngine (hi : needsEngine i = true) (hr : s.eng.valid = true → Answers i s r) :
    Answers i s (s.needEngine r) := by
  obtain ⟨hv, e⟩ | ⟨hv, e⟩ := s.needEngine_cases r <;> rw [e]
  · exact hr hv
  · exact .raise (by decide) (by simp [firstStatus, hi, hv])

/-- HNEW's slot check comes after the engine check. -/
theorem Answers.needSlot {h : BitVec 8} (hv : s.eng.valid = true)
    (hb : badSlot s i = decide (h.toNat ≥ s.params.numHashers))
    (hr : badSlot s i = false → Answers i s r) : Answers i s (s.needSlot h r) := by
  obtain ⟨hlt, e⟩ | ⟨hge, e⟩ := s.needSlot_cases h r <;> rw [e]
  · exact hr (by simpa [hb] using hlt)
  · exact .raise (by decide) (by simp [firstStatus, hv, hb, hge])

/-- The check for a live slot comes after the engine check. -/
theorem Answers.needLive {h : BitVec 8} (hi : needsEngine i = true) (hb : badSlot s i = !s.live h)
    (hr : s.eng.valid = true → badSlot s i = false → Answers i s r) : Answers i s (s.needLive h r) := by
  refine .needEngine hi fun hv => ?_
  cases hl : s.live h
  · exact .raise (by decide) (by simp [firstStatus, hv, hb, hl])
  · exact hr hv (by simp [hb, hl])

/-- CONFIG's parameter check is the only check of a command without engine and slot checks. -/
theorem Answers.needParameters {w : BitVec 8} (hi : needsEngine i = false) (hs : badSlot s i = false)
    (hb : badParameter s i = !(widthSupported w && s.stg.allWritten))
    (hr : badParameter s i = false → Answers i s r) : Answers i s (s.needParameters w r) := by
  unfold State.needParameters
  split
  next hok => exact hr (by simp [hb, hok])
  next hbad => exact .raise (by decide) (by simp [firstStatus, hi, hs, hb, hbad])

/-- The range check comes last. -/
theorem Answers.needRange {off n : Nat} (hv : needsEngine i = true → s.eng.valid = true) (hs : badSlot s i = false)
    (hp : badParameter s i = false) (hb : badRange s i = decide (off + n > s.params.bufBytes))
    (hr : badRange s i = false → Answers i s r) : Answers i s (s.needRange off n r) := by
  have hn : (needsEngine i && !s.eng.valid) = false := by simpa using hv
  obtain ⟨hle, e⟩ | ⟨hlt, e⟩ := s.needRange_cases off n r <;> rw [e]
  · exact hr (by simpa [hb] using hle)
  · exact .raise (by decide) (by simp [firstStatus, hn, hs, hp, hb, hlt])

end Guards

/-- Every command ends as it must: its guards are R220's order (R204, R205, R210, R211). -/
theorem exec_answers (i : Instr) (s : State) : ∃ r, exec i s = .next (s.finish r) ∧ Answers i s r := by
  cases i with
  | nop | setpoly | setinit | setxor | revb => exact ⟨_, rfl, .respond rfl⟩
  | config w ri ro =>
    exact ⟨_, rfl, .needParameters rfl rfl (badParameter_config s w ri ro) fun hp =>
      .respond ((firstStatus_eq_ok_iff ..).mpr ⟨nofun, rfl, hp, rfl⟩)⟩
  | info sel =>
    refine ⟨_, rfl, ?_⟩
    split
    next h0 => subst h0; exact .respond rfl
    next h0 =>
      refine .needEngine (by simpa [needsEngine] using h0) fun hv => ?_
      have hok : firstStatus s (.info sel) = .ok := (firstStatus_eq_ok_iff ..).mpr ⟨fun _ => hv, rfl, rfl, rfl⟩
      split_ifs <;> exact .respond hok
  | tabrd idx =>
    exact ⟨_, rfl, .needEngine rfl fun hv => .respond ((firstStatus_eq_ok_iff ..).mpr ⟨fun _ => hv, rfl, rfl, rfl⟩)⟩
  | hnew h =>
    exact ⟨_, rfl, .needEngine rfl fun hv => .needSlot hv rfl fun hs =>
      .respond ((firstStatus_eq_ok_iff ..).mpr ⟨fun _ => hv, hs, rfl, rfl⟩)⟩
  | hrst h | hupd h _ | hget h | hfree h =>
    exact ⟨_, rfl, .needLive rfl (not_live_eq s h).symm fun hv hs =>
      .respond ((firstStatus_eq_ok_iff ..).mpr ⟨fun _ => hv, hs, rfl, rfl⟩)⟩
  | hupdr h off len =>
    exact ⟨_, rfl, .needLive rfl (not_live_eq s h).symm fun hv hs => .needRange (fun _ => hv) hs rfl rfl fun hr =>
      .respond ((firstStatus_eq_ok_iff ..).mpr ⟨fun _ => hv, hs, rfl, hr⟩)⟩
  | bufwr cnt off data =>
    exact ⟨_, rfl, .needRange nofun rfl rfl rfl fun hr =>
      .respond ((firstStatus_eq_ok_iff ..).mpr ⟨nofun, rfl, rfl, hr⟩)⟩

/-- A command raises the first status that applies and changes nothing else, or answers OK and leaves its effect. -/
theorem exec_cases (i : Instr) (s : State) :
    (firstStatus s i ≠ .ok ∧ exec i s = .next (s.present { status := firstStatus s i, data := 0 })) ∨
    (firstStatus s i = .ok ∧ ∃ d, exec i s = .next ((effect i s).present { status := .ok, data := d })) := by
  obtain ⟨r, he, ⟨hne, rfl⟩ | ⟨hok, d, rfl⟩⟩ := exec_answers i s
  · exact .inl ⟨hne, he⟩
  · exact .inr ⟨hok, d, he⟩

/-! ## Slots (R47) -/

@[simp] theorem State.writeBytes_eng (s : State) (off : Nat) (data : Word) (n : Nat) :
    (s.writeBytes off data n).eng = s.eng := by rw [State.writeBytes_eq]

@[simp] theorem State.curAt_writeBytes (s : State) (off : Nat) (data : Word) (n : Nat) (k : BitVec 8) :
    (s.writeBytes off data n).curAt k = s.curAt k := by rw [State.writeBytes_eq]; rfl

@[simp] theorem State.hvAt_writeBytes (s : State) (off : Nat) (data : Word) (n : Nat) (k : BitVec 8) :
    (s.writeBytes off data n).hvAt k = s.hvAt k := by rw [State.writeBytes_eq]; rfl

/-- A command that names slot `h` has no effect on another slot. -/
theorem effect_other_slot {i : Instr} {s : State} {h k : BitVec 8} (hi : slotOf i = some h) (hk : k ≠ h) :
    (effect i s).curAt k = s.curAt k ∧ (effect i s).hvAt k = s.hvAt k := by
  cases i with
  | hnew | hrst | hupd | hupdr | hget | hfree => cases hi; simp [effect, hk.symm]
  | nop | setpoly | setinit | setxor | config | info | tabrd | bufwr | revb => cases hi

/-- A command that names no slot has no effect on slots, unless it is CONFIG. -/
theorem effect_sameSlots {i : Instr} {s : State} (hi : slotOf i = none) (hc : ∀ w ri ro, i ≠ .config w ri ro) :
    s.SameSlots (effect i s) := by
  cases i with
  | config w ri ro => exact absurd rfl (hc w ri ro)
  | bufwr => intro h; simp [effect]
  | nop | setpoly | setinit | setxor | info | tabrd | revb => exact fun _ => ⟨rfl, rfl⟩
  | hnew | hrst | hupd | hupdr | hget | hfree => cases hi

/-- Settles O37: by the two answers of a command, the effect of each leaving the slots it does not name. -/
theorem slotIndependence : Obligations.SlotIndependence := by
  intro i s t ht
  obtain ⟨hne, he⟩ | ⟨-, d, he⟩ := exec_cases i s <;> rw [he] at ht <;> cases ht
  · refine ⟨fun _ _ _ _ => ⟨rfl, rfl⟩, fun _ _ _ => ⟨rfl, rfl⟩, fun _ _ _ _ hp => ?_⟩
    have hst : firstStatus s i = .ok := congrArg Response.status (Option.some.inj hp)
    exact absurd hst hne
  · refine ⟨fun h k hi hk => effect_other_slot hi hk, fun hi hc => effect_sameSlots hi hc, fun w ri ro hi _ k => ?_⟩
    subst hi
    exact (s.setEng (buildEngine s.stg w ri ro)).hvAt_clearHv k

/-! ## The invariants of R44 -/

/-- R44(a) to (d) speak only of the engine and of the slots. -/
theorem State.BlockInv.congr {s t : State} (hs : s.BlockInv) (heng : t.eng = s.eng) (hslots : s.SameSlots t) :
    t.BlockInv := by
  obtain ⟨hw, hv, hl⟩ := hs
  refine ⟨heng ▸ hw, heng ▸ hv, fun h hh => ?_⟩
  obtain ⟨hcur, hhv⟩ := hslots h
  rw [heng, hcur]
  exact hl h (hhv ▸ hh)

theorem Engine.widthInv_reset : Engine.reset.widthInv := ⟨by decide, by decide⟩

theorem Engine.valueInv_reset : Engine.reset.valueInv :=
  ⟨Nat.two_pow_pos _, Nat.two_pow_pos _, Nat.two_pow_pos _, nofun⟩

@[simp] theorem hvAt_resetWith (p : Params) (h : BitVec 8) : (State.resetWith p).hvAt h = false := by
  simp [State.hvAt, State.resetWith]

/-- R44(a) to (d) right after hardware reset: no engine, no live slot. -/
theorem blockInv_resetWith (p : Params) : (State.resetWith p).BlockInv :=
  ⟨Engine.widthInv_reset, Engine.valueInv_reset, fun h hh => by simp at hh⟩

/-- Writing a W-bit accumulator keeps R44 (c). -/
theorem State.BlockInv.setCur {s : State} (hs : s.BlockInv) (h : BitVec 8) {v : Word} (hv : s.eng.fits v) :
    (s.setCur h v).BlockInv := by
  obtain ⟨hwidth, hvalue, hslot⟩ := hs
  refine ⟨hwidth, hvalue, fun k hk => ?_⟩
  obtain ⟨hvalid, hfits⟩ := hslot k hk
  rw [State.curAt_setCur]
  split
  · exact ⟨hvalid, hv⟩
  · exact ⟨hvalid, hfits⟩

/-- Making a slot live keeps R44 (b) and (c) when there is an engine and the slot holds a W-bit value; making it free
always does. -/
theorem State.BlockInv.setHv {s : State} (hs : s.BlockInv) (h : BitVec 8) {v : Bool}
    (hv : v = true → s.eng.valid = true ∧ s.eng.fits (s.curAt h)) : (s.setHv h v).BlockInv := by
  obtain ⟨hwidth, hvalue, hslot⟩ := hs
  refine ⟨hwidth, hvalue, fun k hk => ?_⟩
  rw [State.hvAt_setHv] at hk
  split at hk
  next heq => subst heq; exact hv hk
  next => exact hslot k hk

/-- The engine of a successful CONFIG has R44 (a), (c), (d), and no slot is live. -/
theorem blockInv_config (s : State) {w : BitVec 8} (hw : widthSupported w = true) (refin refout : Bool) :
    (s.setEng (buildEngine s.stg w refin refout)).clearHv.BlockInv :=
  ⟨buildEngine_widthInv _ _ _ _ hw, buildEngine_valueInv _ _ _ _ hw, fun h hh => by simp at hh⟩

/-- A CrcStep chain started from a W-bit value gives a W-bit value. -/
theorem fits_crcChain (s : State) {c : Word} (hc : s.eng.fits c) (off n : Nat) : s.eng.fits (s.crcChain c off n) := by
  cases n with
  | zero => exact hc
  | succ n => exact s.eng.fits_crcStep _ _

/-- A successful command keeps R44 (a) to (d): only CONFIG writes the engine, and every accumulator a command stores is the
engine's ENG_INIT or a CrcStep result. -/
theorem State.BlockInv.effect {s : State} (hs : s.BlockInv) {i : Instr} (hok : firstStatus s i = .ok) :
    (effect i s).BlockInv := by
  obtain ⟨hvalid, hslot, hparam, -⟩ := (firstStatus_eq_ok_iff s i).mp hok
  obtain ⟨-, ⟨-, hinit, -, -⟩, hlive⟩ := id hs
  cases i with
  | nop | info | tabrd | hget | revb | setpoly | setinit | setxor => exact hs
  | config w ri ro =>
    obtain ⟨hw, -⟩ : widthSupported w = true ∧ s.stg.allWritten = true := by
      simpa [badParameter_config] using hparam
    exact blockInv_config s hw ri ro
  | hnew h => exact (hs.setCur h hinit).setHv h fun _ => ⟨hvalid rfl, by simpa using hinit⟩
  | hrst h => exact hs.setCur h hinit
  | hupd h byte => exact hs.setCur h (s.eng.fits_crcStep _ _)
  | hupdr h off len =>
    obtain ⟨-, hhv⟩ : h.toNat < s.params.numHashers ∧ s.hvAt h = true := by simpa [badSlot] using hslot
    exact hs.setCur h (fits_crcChain s (hlive h hhv).2 _ _)
  | hfree h => exact hs.setHv h nofun
  | bufwr => exact hs.congr (s.writeBytes_eng ..) fun k => ⟨s.curAt_writeBytes .., s.hvAt_writeBytes ..⟩

/-- An accepted beat keeps R44 (a) to (d), whether Decode rejects it or not. -/
theorem runBeat_blockInv {b : Beat} {s t : State} (hs : s.BlockInv) (ht : runBeat b s = .next t) : t.BlockInv := by
  cases hd : decode b with
  | error e =>
    rw [runBeat_of_error hd] at ht
    cases ht
    exact hs
  | ok i =>
    rw [runBeat_of_decode hd] at ht
    obtain ⟨-, he⟩ | ⟨hok, d, he⟩ := exec_cases i s <;> rw [he] at ht <;> cases ht
    · exact hs
    · exact hs.effect hok

/-- A rising edge keeps R44 (a) to (d). -/
theorem clockEdge_blockInv {p : Pins} {s t : State} (hs : s.BlockInv) (ht : clockEdge p s = .next t) : t.BlockInv := by
  obtain ⟨-, he⟩ | ⟨-, -, -, he⟩ | ⟨-, -, -, he⟩ | ⟨r, -, -, -, -, he⟩ | ⟨r, -, -, -, -, he⟩ | ⟨-, -, -, he⟩ :=
    clockEdge_cases p s <;> rw [he] at ht
  case inr.inl => exact runBeat_blockInv (s := s.accept) hs ht
  all_goals cases ht
  case inl => exact blockInv_resetWith s.params
  all_goals exact hs

/-- A step keeps R44 (a) to (d). -/
theorem step_blockInv {s t : State} (hs : s.BlockInv) (ht : step s = .next t) : t.BlockInv := by
  cases hedges : s.host.edges with
  | nil =>
    rw [step_nil hedges] at ht
    cases ht
    exact hs
  | cons p rest =>
    rw [step_cons hedges] at ht
    exact clockEdge_blockInv (s := s.setEdges rest) hs ht

/-- What every step keeps, every run keeps. -/
theorem run_keeps {M : Host.Core} {P : M.State → Prop} (hstep : ∀ s t, P s → M.step s = .next t → P t) (k : Nat)
    {s t : M.State} (hs : P s) (ht : M.run k s = .next t) : P t := by
  induction k generalizing s with
  | zero => cases ht; exact hs
  | succ k ih =>
    rw [Host.Core.run] at ht
    split at ht
    next u hu => exact ih (hstep s u hs hu) ht
    all_goals cases ht

/-- Settles O52: every step keeps (a) to (d), and they hold at reset, whatever the host will drive. -/
theorem blockInvariantKept : Obligations.BlockInvariantKept := by
  refine ⟨fun _ _ hs ht => step_blockInv hs ht, fun p edges k t ht => ?_⟩
  have hreset : { State.resetWith p with host := { edges := edges, delivered := [] } : State }.BlockInv :=
    blockInv_resetWith p
  exact run_keeps (M := Sys2Proof.core) (P := State.BlockInv) (fun _ _ hs ht => step_blockInv hs ht) k hreset ht

/-! ## Hardware reset (R45) -/

/-- Every register of R45's table has its value after hardware reset, whatever the parameters. -/
theorem isReset_resetWith (p : Params) : (State.resetWith p).IsReset :=
  ⟨rfl, rfl, rfl, rfl, rfl, rfl, rfl, rfl, rfl, rfl, rfl, rfl, rfl, hvAt_resetWith p, fun _ => rfl, rfl⟩

/-- Settles O47: `State.reset` is the reset state at the parameters `Config.params`. -/
theorem resetStateValues : Obligations.ResetStateValues :=
  ⟨isReset_resetWith _, fun p => ⟨isReset_resetWith p, rfl⟩⟩

end Sys2Proof.Machine

/-! # Proofs of the encoding's statements (spec/30_encoding.md)

R98's worked encodings are four closed beats: the encoder and the opcode map are evaluated on each. -/

namespace Sys2Proof

/-- Settles O3: each worked encoding of R98, encoded and decoded by evaluation. -/
theorem workedEncodingsDecode : Obligations.WorkedEncodingsDecode := by
  refine ⟨?config, ?bufwr, ?hupdr, ?revb⟩
  case config => exact ⟨by decide, by decide⟩
  case bufwr => exact ⟨by decide, by decide⟩
  case hupdr => exact ⟨by decide, by decide⟩
  case revb => exact ⟨by decide, by decide⟩

end Sys2Proof

/-! # Proofs of the engine commands' statements (spec/40_engine.md)

The reserved bits of a row of R90 are one field of CMD below the opcode, so one lemma (`encodedAs_of_find`) settles the
encoding of every row of that form. GenEntry is compared bit by bit (`and_mask_eq_iff`): a step of its loop brings no bit at
or above W into the bits below W. The commands themselves are their guard's two cases. -/

namespace Sys2Proof

/-! ## Reserved bits (R90, R93) -/

/-- The word whose bits `lo` to `lo + len - 1` are 1: a row's reserved field in R90. -/
def fieldMask (w lo len : Nat) : BitVec w := (BitVec.allOnes len).setWidth w <<< lo

theorem getLsbD_fieldMask {w lo len i : Nat} (hi : i < w) :
    (fieldMask w lo len).getLsbD i = decide (lo ≤ i ∧ i < lo + len) := by
  rw [Bool.eq_iff_iff]
  simp [fieldMask, hi]
  omega

/-- A value is 0 under a field's mask exactly when the field is 0. -/
theorem and_fieldMask_eq_zero_iff {w lo len : Nat} (v : BitVec w) (h : lo + len ≤ w) :
    v &&& fieldMask w lo len = 0 ↔ v.extractLsb' lo len = 0 := by
  constructor <;> intro hv <;> ext i hi
  · have hbit := congrArg (·.getLsbD (lo + i)) hv
    simpa [getLsbD_fieldMask (show lo + i < w by omega), hi] using hbit
  · have hbit := congrArg (·.getLsbD (i - lo)) hv
    by_cases hf : lo ≤ i ∧ i < lo + len
    · have hlt : i - lo < len := by omega
      have hzero : v.getLsbD i = false := by simpa [hlt, hf] using hbit
      simp [← BitVec.getLsbD_eq_getElem, hzero]
    · simp [← BitVec.getLsbD_eq_getElem, getLsbD_fieldMask hi, hf]

/-- CMD under the mask of the opcode and of a reserved field below it is the opcode's pattern exactly when the field
is 0 (R90). -/
theorem cmd_matches_iff {cmd : Word} {op : BitVec 8} {lo len : Nat} (hop : cmd.extractLsb' 24 8 = op)
    (h : lo + len ≤ 24) :
    cmd &&& (0xFF000000 ||| fieldMask 32 lo len) = inCmd op 24 ↔ cmd.extractLsb' lo len = 0 := by
  have hbit : ∀ i < 32, (cmd &&& (0xFF000000 ||| fieldMask 32 lo len)).getLsbD i = (inCmd op 24).getLsbD i ↔
      (cmd &&& fieldMask 32 lo len).getLsbD i = (0 : Word).getLsbD i := by
    intro i hi
    rw [show (0xFF000000 : Word) = fieldMask 32 24 8 by decide]
    subst hop
    rcases Nat.lt_or_ge i 24 with hlt | hge
    · simp [inCmd, getLsbD_fieldMask hi, hlt]
    · have hfield : ¬ i < lo + len := by omega
      have hbyte : i - 24 < 8 := by omega
      have hword : i - 24 < 32 := by omega
      simp [-BitVec.getLsbD_eq_getElem, inCmd, getLsbD_fieldMask hi, hi, hge, hfield, hbyte, hword]
  rw [← and_fieldMask_eq_zero_iff cmd (by omega)]
  constructor <;> intro hv <;> refine BitVec.eq_of_getLsbD_eq fun i hi => ?_
  · exact (hbit i hi).mp (hv ▸ rfl)
  · exact (hbit i hi).mpr (hv ▸ rfl)

/-- Opcode `op` encodes what its row of R90 builds, when CMD's reserved bits are one field below the opcode and `zeros`
says that it and ARG's reserved bits are 0. -/
theorem encodedAs_of_find {op : BitVec 8} {mask pattern : Word} {argZero : Beat → Long} {build : Beat → Instr}
    {lo len : Nat} {zeros : Beat → Prop}
    (hfind : opcodeMap.find? (fun row => row.opcode == op) = some ⟨op, mask, pattern, argZero, build⟩)
    (hrow : mask = 0xFF000000 ||| fieldMask 32 lo len ∧ pattern = inCmd op 24 ∧ lo + len ≤ 24)
    (hzeros : ∀ b, zeros b ↔ b.cmd.extractLsb' lo len = 0 ∧ b.arg &&& argZero b = 0) :
    Machine.EncodedAs op zeros build := by
  obtain ⟨hmask, hpattern, hlen⟩ := hrow
  intro b hop
  have hdecode : decode b = decodeRow ⟨op, mask, pattern, argZero, build⟩ b := by
    rw [decode, Beat.opcode, hop, hfind]
  have hcmd := cmd_matches_iff hop hlen
  rw [← hmask, ← hpattern] at hcmd
  constructor
  · intro hz
    obtain ⟨hc, ha⟩ := (hzeros b).mp hz
    rw [hdecode, decodeRow, if_neg (not_not.mpr (hcmd.mpr hc)), if_neg (not_not.mpr ha)]
  · intro hz s
    have herror : ∃ e, decode b = .error e := by
      rw [hdecode, decodeRow]
      split_ifs with hc ha
      · exact ⟨_, rfl⟩
      · exact ⟨_, rfl⟩
      · exact absurd ((hzeros b).mpr ⟨hcmd.mp (not_not.mp hc), not_not.mp ha⟩) hz
    obtain ⟨e, he⟩ := herror
    exact Machine.runBeat_of_error he s

/-- A row whose ARG is reserved whole. -/
theorem encodedAs_of_argZeroAll {op : BitVec 8} {mask pattern : Word} {build : Beat → Instr} {lo len : Nat}
    (hfind : opcodeMap.find? (fun row => row.opcode == op) = some ⟨op, mask, pattern, argZeroAll, build⟩)
    (hrow : mask = 0xFF000000 ||| fieldMask 32 lo len ∧ pattern = inCmd op 24 ∧ lo + len ≤ 24) :
    Machine.EncodedAs op (fun b => b.cmd.extractLsb' lo len = 0 ∧ b.arg = 0) build := by
  refine encodedAs_of_find hfind hrow fun b => ?_
  rw [show argZeroAll b = BitVec.allOnes 64 from rfl, BitVec.and_allOnes]

/-- A row whose ARG[63:32] is reserved. -/
theorem encodedAs_of_argZeroHigh {op : BitVec 8} {mask pattern : Word} {build : Beat → Instr} {lo len : Nat}
    (hfind : opcodeMap.find? (fun row => row.opcode == op) = some ⟨op, mask, pattern, argZeroHigh, build⟩)
    (hrow : mask = 0xFF000000 ||| fieldMask 32 lo len ∧ pattern = inCmd op 24 ∧ lo + len ≤ 24) :
    Machine.EncodedAs op (fun b => b.cmd.extractLsb' lo len = 0 ∧ b.arg.extractLsb' 32 32 = 0) build := by
  refine encodedAs_of_find hfind hrow fun b => ?_
  rw [show argZeroHigh b = fieldMask 64 32 32 from rfl, and_fieldMask_eq_zero_iff b.arg (by decide)]

/-! ## Parameters (R7) -/

theorem Params.bufBytes_lt (p : Params) : p.bufBytes < 2 ^ 32 := by
  have hlast := p.lastOffset.isLt
  rw [Params.bufBytes]
  omega

namespace Machine

/-! ## A command's guard let through or not -/

/-- A command to which an error applies raises it and changes nothing. -/
theorem exec_of_firstStatus {i : Instr} {s : State} {st : Status} (h : firstStatus s i = st) (hst : st ≠ .ok) :
    exec i s = .next (s.present { status := st, data := 0 }) := by
  subst h
  obtain ⟨-, he⟩ | ⟨hok, -⟩ := exec_cases i s
  · exact he
  · exact absurd hok hst

/-- A command that needs an engine raises NOT_CONFIGURED without one (R210). -/
theorem exec_of_no_engine {i : Instr} {s : State} (hi : needsEngine i = true) (hv : s.eng.valid = false) :
    exec i s = .next (s.present { status := .notConfigured, data := 0 }) :=
  exec_of_firstStatus (by simp [firstStatus, hi, hv]) (by decide)

theorem State.needEngine_of_valid {s : State} (hv : s.eng.valid = true) (r : Result) : s.needEngine r = r := if_pos hv

theorem State.needParameters_of_staged {s : State} {w : BitVec 8} (hw : widthSupported w = true)
    (hg : s.stg.allWritten = true) (r : Result) : s.needParameters w r = r := by
  simp [State.needParameters, hw, hg]

/-! ## NOP and the staging commands (R110 to R114) -/

/-- Settles O7: CMD[23:0] is reserved, and so is ARG. -/
theorem nopAnswersOk : Obligations.NopAnswersOk :=
  ⟨encodedAs_of_argZeroAll rfl (by decide), fun _ => rfl⟩

/-- Settles O8: CMD[23:0] is reserved with ARG[63:32]. -/
theorem setpolyLoadsStagingPolynomial : Obligations.SetpolyLoadsStagingPolynomial :=
  ⟨encodedAs_of_argZeroHigh rfl (by decide), fun _ _ => rfl⟩

/-- Settles O9: CMD[23:0] is reserved with ARG[63:32]. -/
theorem setinitLoadsStagingInitialValue : Obligations.SetinitLoadsStagingInitialValue :=
  ⟨encodedAs_of_argZeroHigh rfl (by decide), fun _ _ => rfl⟩

/-- Settles O10: CMD[23:0] is reserved with ARG[63:32]. -/
theorem setxorLoadsStagingFinalXor : Obligations.SetxorLoadsStagingFinalXor :=
  ⟨encodedAs_of_argZeroHigh rfl (by decide), fun _ _ => rfl⟩

/-- Writing the staging registers and presenting a response leaves the engine, the slots, BUF and the rest (R111). -/
theorem present_setStg_frame (s : State) (g : Staging) (r : Response) :
    ((s.setStg g).present r).eng = s.eng ∧ s.SameSlots ((s.setStg g).present r) ∧
    s.SameBuffer ((s.setStg g).present r) ∧ s.SameRest ((s.setStg g).present r) :=
  ⟨rfl, fun _ => ⟨rfl, rfl⟩, fun _ => ⟨rfl, rfl⟩, rfl, rfl, rfl, rfl⟩

/-- Settles O40: each of the three commands replaces the staging registers, keeping the other two. -/
theorem stagingCommandsFrame : Obligations.StagingCommandsFrame := by
  intro v s t i hi ht
  obtain rfl | rfl | rfl := hi <;> cases ht <;>
    obtain ⟨heng, hslots, hbuf, hrest⟩ := present_setStg_frame s _ { status := .ok, data := 0 }
  case inl => exact ⟨heng, hslots, hbuf, hrest, absurd rfl, fun _ => ⟨rfl, rfl⟩, fun _ => ⟨rfl, rfl⟩⟩
  case inr.inl => exact ⟨heng, hslots, hbuf, hrest, fun _ => ⟨rfl, rfl⟩, absurd rfl, fun _ => ⟨rfl, rfl⟩⟩
  case inr.inr => exact ⟨heng, hslots, hbuf, hrest, fun _ => ⟨rfl, rfl⟩, fun _ => ⟨rfl, rfl⟩, absurd rfl⟩

/-! ## GenEntry below W (R120, R121) -/

/-- Two values agree under the W-bit mask exactly when their bits below W do. -/
theorem and_mask_eq_iff {w x y : Nat} : x &&& mask w = y &&& mask w ↔ ∀ i < w, x.testBit i = y.testBit i := by
  rw [and_mask, and_mask]
  constructor
  · intro h i hi
    simpa [hi] using congrArg (·.testBit i) h
  · intro h
    refine Nat.eq_of_testBit_eq fun i => ?_
    by_cases hi : i < w
    · simp [hi, h i hi]
    · simp [hi]

/-- One step of GenEntry's loop shifts the register, and the polynomial enters exactly when bit W - 1 was 1. -/
theorem testBit_genStep (w p reg i : Nat) :
    (genStep w p reg).testBit i =
      ((decide (1 ≤ i) && reg.testBit (i - 1)) ^^ (reg.testBit (w - 1) && p.testBit i)) := by
  have htop : reg &&& msb w ≠ 0 ↔ reg.testBit (w - 1) = true := by
    rw [msb, Nat.and_two_pow]
    cases reg.testBit (w - 1) <;> simp
  unfold genStep
  split_ifs with h <;> rw [htop] at h <;> simp [h, Nat.testBit_shiftLeft]

/-- A step reads only the bits below W of the register and of the polynomial. -/
theorem genStep_congr {w p p' reg reg' : Nat} (hw : 0 < w) (hp : p &&& mask w = p' &&& mask w)
    (hreg : reg &&& mask w = reg' &&& mask w) : genStep w p reg &&& mask w = genStep w p' reg' &&& mask w := by
  rw [and_mask_eq_iff] at hp hreg ⊢
  intro i hi
  rw [testBit_genStep, testBit_genStep, hp i hi, hreg (i - 1) (by omega), hreg (w - 1) (by omega)]

theorem genSteps_congr {w p p' : Nat} (hw : 0 < w) (hp : p &&& mask w = p' &&& mask w) (n : Nat) {reg reg' : Nat}
    (hreg : reg &&& mask w = reg' &&& mask w) : genSteps w p n reg &&& mask w = genSteps w p' n reg' &&& mask w := by
  induction n generalizing reg reg' with
  | zero => exact hreg
  | succ n ih => exact ih (genStep_congr hw hp hreg)

theorem and_mask_and_mask (v w : Nat) : v &&& mask w &&& mask w = v &&& mask w := by
  rw [Nat.and_assoc, Nat.and_self]

/-- Masking the register after every step gives what masking once at the end gives. -/
theorem maskedGenSteps_and_mask {w : Nat} (hw : 0 < w) (p n reg : Nat) :
    maskedGenSteps w p n (reg &&& mask w) = genSteps w p n reg &&& mask w := by
  induction n generalizing reg with
  | zero => rfl
  | succ n ih =>
    calc maskedGenSteps w p (n + 1) (reg &&& mask w)
        = genSteps w p n (genStep w p (reg &&& mask w)) &&& mask w := ih _
      _ = genSteps w p (n + 1) reg &&& mask w :=
        genSteps_congr hw rfl n (genStep_congr hw rfl (and_mask_and_mask reg w))

/-- R121: the W-bit generator gives GenEntry. -/
theorem maskedGenEntry_eq {w : Nat} (hw : 0 < w) (p d : Nat) : maskedGenEntry w p d = genEntry w p d := by
  rw [maskedGenEntry, maskedGenSteps_and_mask hw, genEntry]
  exact genSteps_congr hw rfl 8 (and_mask_and_mask _ w).symm

/-- GenEntry does not read the polynomial's bits at or above W. -/
theorem genEntry_and_mask {w : Nat} (hw : 0 < w) (p d : Nat) : genEntry w (p &&& mask w) d = genEntry w p d :=
  genSteps_congr hw (and_mask_and_mask p w) 8 rfl

/-- Settles O14: at every W above 0, the loop reads only bits below W. -/
theorem genEntryMaskIsUnobservable : Obligations.GenEntryMaskIsUnobservable := by
  intro w p d hw _
  have hpos : 0 < w := by omega
  exact ⟨maskedGenEntry_eq hpos p d, genEntry_and_mask hpos p d⟩

theorem genSteps_zero (w p n : Nat) : genSteps w p n 0 = 0 := by
  induction n with
  | zero => rfl
  | succ n ih => simpa [genSteps, genStep] using ih

/-- GenEntry of d = 0 is 0. -/
theorem genEntry_zero (w p : Nat) : genEntry w p 0 = 0 := by
  simp [genEntry, genSteps_zero]

/-- Below the top bit a step only shifts. -/
theorem genSteps_two_pow {w k n : Nat} (h : k + n < w) (p : Nat) : genSteps w p n (2 ^ k) = 2 ^ (k + n) := by
  induction n generalizing k with
  | zero => rfl
  | succ n ih =>
    have hstep : genStep w p (2 ^ k) = 2 ^ (k + 1) := by
      have hne : w - 1 ≠ k := by omega
      simp [genStep, msb, Nat.and_two_pow, hne.symm, Nat.shiftLeft_eq, Nat.pow_succ]
    rw [genSteps, hstep, ih (by omega)]
    congr 1; omega

theorem genSteps_succ' (w p n reg : Nat) : genSteps w p (n + 1) reg = genStep w p (genSteps w p n reg) := by
  induction n generalizing reg with
  | zero => rfl
  | succ n ih => exact ih _

/-- GenEntry of d = 1 is the polynomial: seven steps bring the 1 to the top bit, the eighth adds the polynomial. -/
theorem genEntry_one {w : Nat} (hw : 8 ≤ w) (p : Nat) : genEntry w p 1 = p &&& mask w := by
  have hreg : (1 <<< (w - 8)) &&& mask w = 2 ^ (w - 8) := by
    rw [and_mask, Nat.shiftLeft_eq, Nat.one_mul]
    exact Nat.mod_eq_of_lt (Nat.pow_lt_pow_right (by decide) (by omega))
  rw [genEntry, hreg, genSteps_succ', genSteps_two_pow (by omega), and_mask_eq_iff]
  intro i hi
  have htop : w - 8 + 7 = w - 1 := by omega
  have hlow : (2 ^ (w - 1)).testBit (i - 1) = false := Nat.testBit_two_pow_of_ne (by omega)
  rw [testBit_genStep, htop, hlow, Nat.testBit_two_pow_self]
  simp

/-! ## CONFIG (R115 to R118, R122) -/

/-- Masking to W bits never wraps in the 32-bit register. -/
theorem maskTo_toNat (w : BitVec 8) (v : Word) : (maskTo w v).toNat = v.toNat &&& mask w.toNat := by
  rw [maskTo, BitVec.toNat_ofNat]
  exact Nat.mod_eq_of_lt (lt_of_le_of_lt Nat.and_le_left v.isLt)

theorem widthSupported_iff (w : BitVec 8) : widthSupported w = true ↔ w = 8 ∨ w = 16 ∨ w = 32 := by
  simp [widthSupported, or_assoc]

theorem Staging.allWritten_iff (g : Staging) :
    g.allWritten = true ↔ g.polyW = true ∧ g.initW = true ∧ g.xorW = true := by
  simp [Staging.allWritten, and_assoc]

/-- CONFIG with both checks passed (R118). -/
theorem exec_config {w : BitVec 8} {s : State} (hw : widthSupported w = true) (hg : s.stg.allWritten = true)
    (refin refout : Bool) :
    exec (.config w refin refout) s =
      .next ((s.setEng (buildEngine s.stg w refin refout)).clearHv.present { status := .ok, data := 0 }) := by
  rw [exec, execConfig, State.needParameters_of_staged hw hg, State.finish_respond]

/-- Settles O11: each clause is one of R204's causes. -/
theorem configRejectsBadParameters : Obligations.ConfigRejectsBadParameters := by
  intro w refin refout s h
  have hbad : badParameter s (.config w refin refout) = true := by
    rw [badParameter_config, Bool.not_eq_true', ← Bool.not_eq_true, Bool.and_eq_true, widthSupported_iff,
      Staging.allWritten_iff]
    simp only [← Bool.not_eq_true] at h
    tauto
  exact exec_of_firstStatus (by simp [firstStatus, needsEngine, badSlot, hbad]) (by decide)

/-- Settles O12: the state of `exec_config`, register by register. -/
theorem configBuildsEngine : Obligations.ConfigBuildsEngine := by
  refine ⟨encodedAs_of_argZeroAll rfl (by decide), fun w refin refout s hw hpoly hinit hxor => ?_⟩
  have hsupported : widthSupported w = true := (widthSupported_iff w).mpr hw
  refine ⟨_, exec_config hsupported (s.stg.allWritten_iff.mpr ⟨hpoly, hinit, hxor⟩) refin refout, rfl, rfl,
    maskTo_toNat w s.stg.poly, maskTo_toNat w s.stg.init, maskTo_toNat w s.stg.xor, rfl, rfl, fun d => ?_,
    fun h => ⟨?_, rfl⟩, rfl, fun _ => ⟨rfl, rfl⟩, ⟨rfl, rfl, rfl, rfl⟩, rfl⟩
  · exact maskTo_toNat w s.stg.poly ▸ buildEngine_tableAt s.stg w refin refout hsupported d
  · exact (s.setEng (buildEngine s.stg w refin refout)).hvAt_clearHv h

/-- Settles O15: both tables are GenEntry's of the width and the masked polynomial. -/
theorem tableIsDeterminedByWidthAndPolynomial : Obligations.TableIsDeterminedByWidthAndPolynomial := by
  intro w ri ro ri' ro' s s' hw hs hs' hpoly
  have hsupported := (widthSupported_iff w).mpr hw
  refine ⟨_, _, exec_config hsupported hs ri ro, exec_config hsupported hs' ri' ro', ?_⟩
  show genTable w.toNat (maskTo w s.stg.poly).toNat = genTable w.toNat (maskTo w s'.stg.poly).toNat
  rw [maskTo_toNat, maskTo_toNat, mask, hpoly]

/-! ## TABRD (R128) -/

/-- TABRD with an engine. -/
theorem exec_tabrd {s : State} (hv : s.eng.valid = true) (idx : BitVec 8) :
    exec (.tabrd idx) s = .next (s.present { status := .ok, data := (s.eng.tableAt idx).setWidth 64 }) := by
  rw [exec, execTabrd, State.needEngine_of_valid hv, State.finish_respond, zext64]

/-- TABLE[0] of a valid engine is 0 (R128). -/
theorem Engine.tableAt_zero {e : Engine} (hv : e.valid = true) (he : e.valueInv) : e.tableAt 0 = 0 := by
  obtain ⟨-, -, -, htable⟩ := he
  obtain ⟨-, h0⟩ := htable hv 0
  exact BitVec.eq_of_toNat_eq (h0.trans (genEntry_zero _ _))

/-- TABLE[1] of a valid engine is its polynomial (R128). -/
theorem Engine.tableAt_one {e : Engine} (hv : e.valid = true) (hwidth : e.widthInv) (he : e.valueInv) :
    e.tableAt 1 = e.poly := by
  obtain ⟨hpoly, -, -, htable⟩ := he
  obtain ⟨-, h1⟩ := htable hv 1
  have hw : 8 ≤ e.width.toNat := by
    obtain h | h | h := (widthSupported_iff _).mp (hwidth.1.mp hv) <;> simp [h]
  refine BitVec.eq_of_toNat_eq (h1.trans ?_)
  calc genEntry e.width.toNat e.poly.toNat 1
      = e.poly.toNat &&& mask e.width.toNat := genEntry_one hw _
    _ = e.poly.toNat := by rw [and_mask, Nat.mod_eq_of_lt hpoly]

/-- Settles O18: TABRD's guard, and the first two entries of a generated table. -/
theorem tabrdReadsTable : Obligations.TabrdReadsTable := by
  refine ⟨encodedAs_of_argZeroAll rfl (by decide), fun idx s => ⟨fun hv => exec_tabrd hv idx, exec_of_no_engine rfl,
    fun hv hinv => ?_⟩⟩
  obtain ⟨hwidth, hvalue, -⟩ := hinv
  have h0 := exec_tabrd hv 0
  have h1 := exec_tabrd hv 1
  rw [Engine.tableAt_zero hv hvalue] at h0
  rw [Engine.tableAt_one hv hwidth hvalue] at h1
  exact ⟨h0, h1⟩

/-! ## The commands that change no state (R68, R127) -/

theorem effect_of_readsOnly {i : Instr} (hi : readsOnly i = true) (s : State) : effect i s = s := by
  cases i with
  | nop | info | tabrd | hget | revb => rfl
  | setpoly | setinit | setxor | config | hnew | hrst | hupd | hupdr | hfree | bufwr => cases hi

/-- A command that changes no state only answers. -/
theorem exec_of_readsOnly {i : Instr} (hi : readsOnly i = true) (s : State) :
    ∃ r, exec i s = .next (s.present r) := by
  obtain ⟨-, he⟩ | ⟨-, d, he⟩ := exec_cases i s
  · exact ⟨_, he⟩
  · exact ⟨_, effect_of_readsOnly hi s ▸ he⟩

/-- Accepting a command in an idle state, presenting a response and taking it leads back to the state. -/
theorem idle_of_present_accept {s : State} (hs : s.port = Port.idle) (r : Response) :
    { s.accept.present r with port := Port.idle } = s := by
  rw [← hs]
  rfl

/-- Settles O19: the effect of such a command is none. -/
theorem readersLeaveStateUnchanged : Obligations.ReadersLeaveStateUnchanged := by
  refine fun i s hi => ⟨exec_of_readsOnly hi s, fun b hb hs => ?_⟩
  obtain ⟨r, hr⟩ := exec_of_readsOnly hi s.accept
  have hbeat : runBeat b s.accept = .next (s.accept.present r) := (runBeat_of_decode hb _).trans hr
  have ht : transact b s = some ({ s.accept.present r with port := Port.idle }, r) := by
    rw [transact, hbeat]
    rfl
  rw [idle_of_present_accept hs r] at ht
  exact ⟨r, ht⟩

/-! ## INFO (R125, R126) -/

/-- INFO of an engine parameter, with an engine. -/
theorem exec_info {s : State} (hv : s.eng.valid = true) {sel : BitVec 2} (hsel : sel ≠ 0) :
    exec (.info sel) s = .next (s.present
      { status := .ok,
        data := (if sel = 1 then s.eng.poly else if sel = 2 then s.eng.init else s.eng.xorout).setWidth 64 }) := by
  rw [exec, execInfo, if_neg hsel, State.needEngine_of_valid hv]
  split_ifs <;> rfl

/-- A field placed at bit `k` of a datum, as a number. -/
theorem inData_eq_ofNat {w : Nat} (v : BitVec w) (k : Nat) : inData v k = BitVec.ofNat 64 (v.toNat <<< k) := by
  apply BitVec.eq_of_toNat_eq
  simp [inData, Nat.shiftLeft_eq]

theorem getLsbD_inData {w : Nat} (v : BitVec w) {k i : Nat} (hi : i < 64) :
    (inData v k).getLsbD i = (decide (k ≤ i) && v.getLsbD (i - k)) := by
  simp only [inData, BitVec.getLsbD_shiftLeft, BitVec.getLsbD_setWidth, hi, show i - k < 64 by omega]
  by_cases hk : k ≤ i <;> simp [hk]

/-- A field read back at its own place. -/
theorem extractLsb'_inData_self {w k : Nat} (v : BitVec w) (h : k + w ≤ 64) : (inData v k).extractLsb' k w = v := by
  refine BitVec.eq_of_getLsbD_eq fun i hi => ?_
  rw [BitVec.getLsbD_extractLsb', getLsbD_inData v (by omega)]
  simp [hi]

/-- A field is not seen beside its own place. -/
theorem extractLsb'_inData_disjoint {w k lo len : Nat} (v : BitVec w) (h : lo + len ≤ k ∨ k + w ≤ lo)
    (h64 : lo + len ≤ 64) :
    (inData v k).extractLsb' lo len = 0 := by
  refine BitVec.eq_of_getLsbD_eq fun i hi => ?_
  rw [BitVec.getLsbD_extractLsb', getLsbD_inData v (by omega)]
  by_cases hk : k ≤ lo + i
  · rw [BitVec.getLsbD_of_ge v (lo + i - k) (by omega)]
    simp
  · simp [hk]

/-- Settles O17: each field of the word is read at its own place, where no other field is seen. -/
theorem infoWordFields : Obligations.InfoWordFields := by
  refine fun s => ⟨s.infoWord, rfl, ?_⟩
  have hbit : ∀ k, s.infoWord.getLsbD k = (s.infoWord.extractLsb' k 1).getLsbD 0 := fun k => by simp
  have hbuf : s.params.bufBytes % 4294967296 = s.params.bufBytes := Nat.mod_eq_of_lt s.params.bufBytes_lt
  simp only [hbit]
  simp only [State.infoWord, BitVec.extractLsb'_or]
  simp [extractLsb'_inData_self, extractLsb'_inData_disjoint, Params.numHashers, hbuf]

/-- Settles O16: INFO's guard and selector; right after reset every field of the word but the two parameters is 0. -/
theorem infoReadsParameters : Obligations.InfoReadsParameters := by
  refine ⟨encodedAs_of_argZeroAll rfl (by decide), fun s => ⟨rfl, fun hv sel hsel => ?_, fun hv => ⟨?_, ?_, ?_⟩,
    fun p => ?_⟩⟩
  · exact exec_of_no_engine (by simpa [needsEngine] using hsel) hv
  · exact exec_info hv (by decide)
  · exact exec_info hv (by decide)
  · exact exec_info hv (by decide)
  · have hb : (BitVec.ofNat 32 p.bufBytes).toNat = p.bufBytes := Nat.mod_eq_of_lt p.bufBytes_lt
    simp [State.infoWord, State.resetWith, inData_eq_ofNat, Engine.reset, Staging.reset, hb, Params.numHashers]

end Machine

end Sys2Proof

/-! # Proofs of the hasher commands' statements (spec/41_hasher.md)

A command on a slot it can use is its guard let through (`exec_hnew` to `exec_hfree`) and leaves everything but its slot
(`onlySlot_effect`); without an engine or a live slot it raises R210's or R211's status (`exec_without_live`). The chunkings
of R152 all compute the fold of CrcStep over the range's bytes. -/

namespace Sys2Proof

/-! ## Reserved bits of HUPDR and BUFWR (R90, R93) -/

/-- A row none of whose ARG bits is reserved. -/
theorem encodedAs_of_argZeroNone {op : BitVec 8} {mask pattern : Word} {build : Beat → Instr} {lo len : Nat}
    (hfind : opcodeMap.find? (fun row => row.opcode == op) = some ⟨op, mask, pattern, argZeroNone, build⟩)
    (hrow : mask = 0xFF000000 ||| fieldMask 32 lo len ∧ pattern = inCmd op 24 ∧ lo + len ≤ 24) :
    Machine.EncodedAs op (fun b => b.cmd.extractLsb' lo len = 0) build := by
  refine encodedAs_of_find hfind hrow fun b => ?_
  simp [argZeroNone]

/-- The top bits of a value from a byte boundary up are 0 exactly when each of the bytes there is. -/
theorem extractLsb'_top_eq_zero_iff {w lo n : Nat} (v : BitVec w) :
    v.extractLsb' lo (8 * n) = 0 ↔ ∀ k < n, v.extractLsb' (lo + 8 * k) 8 = 0 := by
  constructor
  · intro hv k hk
    ext i hi
    have hbit := congrArg (·.getLsbD (8 * k + i)) hv
    have hlt : 8 * k + i < 8 * n := by omega
    simpa [hlt, Nat.add_assoc] using hbit
  · intro hv
    ext i hi
    have hbit := congrArg (·.getLsbD (i % 8)) (hv (i / 8) (by omega))
    have hsplit : lo + 8 * (i / 8) + i % 8 = lo + i := by omega
    simpa [Nat.mod_lt, hsplit] using hbit

/-- The ones from bit `lo` up are the mask of the field that ends at the top. -/
theorem allOnes_shiftLeft_eq_fieldMask {w lo len : Nat} (h : lo + len = w) :
    BitVec.allOnes w <<< lo = fieldMask w lo len := by
  refine BitVec.eq_of_getLsbD_eq fun i hi => ?_
  rw [getLsbD_fieldMask hi, Bool.eq_iff_iff]
  simp [hi]
  omega

/-- BUFWR's reserved ARG bits are the data bytes above the count (R93). -/
theorem and_argZeroAboveCount_eq_zero_iff (b : Beat) :
    b.arg &&& argZeroAboveCount b = 0 ↔
      ∀ k, b.low2.toNat < k → k < 4 → b.arg.extractLsb' (32 + 8 * k) 8 = 0 := by
  have hcnt : b.low2.toNat < 4 := b.low2.isLt
  have hmask : argZeroAboveCount b = fieldMask 64 (32 + 8 * (b.low2.toNat + 1)) (8 * (3 - b.low2.toNat)) :=
    allOnes_shiftLeft_eq_fieldMask (by omega)
  rw [hmask, and_fieldMask_eq_zero_iff b.arg (by omega), extractLsb'_top_eq_zero_iff]
  constructor <;> intro hv k hk
  · intro h4
    have hbyte := hv (k - (b.low2.toNat + 1)) (by omega)
    have heq : 32 + 8 * (b.low2.toNat + 1) + 8 * (k - (b.low2.toNat + 1)) = 32 + 8 * k := by omega
    rwa [heq] at hbyte
  · have hbyte := hv (b.low2.toNat + 1 + k) (by omega) (by omega)
    rwa [Nat.mul_add, ← Nat.add_assoc] at hbyte

namespace Machine

/-! ## A command on a live slot, and without one -/

theorem State.needLive_of_live {s : State} {h : BitVec 8} (hv : s.eng.valid = true) (hl : s.live h = true) (r : Result) :
    s.needLive h r = r := by
  rw [State.needLive, State.needEngine_of_valid hv, if_pos hl]

theorem State.needRange_of_le {s : State} {off n : Nat} (hr : off + n ≤ s.params.bufBytes) (r : Result) :
    s.needRange off n r = r :=
  if_pos (decide_eq_true hr)

/-- With an engine, a command naming a slot it cannot use raises NO_HASHER (R211). -/
theorem exec_of_badSlot {i : Instr} {s : State} (hv : s.eng.valid = true) (hb : badSlot s i = true) :
    exec i s = .next (s.present { status := .noHasher, data := 0 }) :=
  exec_of_firstStatus (by simp [firstStatus, hv, hb]) (by decide)

/-- What a command that needs slot `h` live raises without an engine and without a live slot (R210, R211). -/
theorem exec_without_live {i : Instr} {s : State} {h : BitVec 8} (hi : needsEngine i = true)
    (hb : badSlot s i = (decide (h.toNat ≥ s.params.numHashers) || !s.hvAt h)) :
    (s.eng.valid = false → exec i s = .next (s.present { status := .notConfigured, data := 0 })) ∧
    (s.eng.valid = true → (h.toNat ≥ s.params.numHashers ∨ s.hvAt h = false) →
      exec i s = .next (s.present { status := .noHasher, data := 0 })) :=
  ⟨exec_of_no_engine hi, fun hv hslot => exec_of_badSlot hv (by simpa [hb] using hslot)⟩

/-- A slot command's effect, its response presented, leaves everything outside its slot (R22, R47). -/
theorem onlySlot_effect {i : Instr} {h : BitVec 8} (hi : slotOf i = some h) (s : State) (r : Response) :
    s.OnlySlot ((effect i s).present r) h := by
  refine ⟨fun k hk => effect_other_slot hi hk, ?_⟩
  cases i with
  | hnew | hrst | hupd | hupdr | hget | hfree => exact ⟨rfl, rfl, fun _ => ⟨rfl, rfl⟩, rfl, rfl, rfl, rfl⟩
  | nop | setpoly | setinit | setxor | config | info | tabrd | bufwr | revb => cases hi

section Live
variable {s : State} {h : BitVec 8} (hv : s.eng.valid = true)
include hv

/-- HNEW of an existing slot, live or free (R140). -/
theorem exec_hnew (hs : h.toNat < s.params.numHashers) :
    exec (.hnew h) s = .next (((s.setCur h s.eng.init).setHv h true).present { status := .ok, data := 0 }) := by
  rw [exec, execHnew, State.needEngine_of_valid hv, State.needSlot, if_pos hs, State.finish_respond]

variable (hl : s.live h = true)
include hl

/-- HRST of a live slot (R141). -/
theorem exec_hrst : exec (.hrst h) s = .next ((s.setCur h s.eng.init).present { status := .ok, data := 0 }) := by
  rw [exec, execHrst, State.needLive_of_live hv hl, State.finish_respond]

/-- HUPD of a live slot (R145). -/
theorem exec_hupd (byte : Byte) : exec (.hupd h byte) s =
    .next ((s.setCur h (s.eng.crcStep (s.curAt h) byte)).present { status := .ok, data := 0 }) := by
  rw [exec, execHupd, State.needLive_of_live hv hl, State.finish_respond]

/-- HUPDR of a live slot and a range inside BUF (R150). -/
theorem exec_hupdr {offset length : Word} (hr : offset.toNat + length.toNat ≤ s.params.bufBytes) :
    exec (.hupdr h offset length) s =
      .next ((s.setCur h (s.crcChain (s.curAt h) offset.toNat length.toNat)).present { status := .ok, data := 0 }) := by
  rw [exec, execHupdr, State.needLive_of_live hv hl, State.needRange_of_le hr, State.finish_respond]

/-- HUPDR of a range given as naturals: one inside BUF has no operand that wraps. -/
theorem exec_hupdr_ofNat {o n : Nat} (hr : o + n ≤ s.params.bufBytes) :
    exec (.hupdr h (BitVec.ofNat 32 o) (BitVec.ofNat 32 n)) s =
      .next ((s.setCur h (s.crcChain (s.curAt h) o n)).present { status := .ok, data := 0 }) := by
  have hbuf := s.params.bufBytes_lt
  have ho : (BitVec.ofNat 32 o).toNat = o := Nat.mod_eq_of_lt (by omega)
  have hn : (BitVec.ofNat 32 n).toNat = n := Nat.mod_eq_of_lt (by omega)
  rw [exec_hupdr hv hl (by rwa [ho, hn]), ho, hn]

/-- HGET of a live slot (R155). -/
theorem exec_hget :
    exec (.hget h) s = .next (s.present { status := .ok, data := s.eng.finalize (s.curAt h) }) := by
  rw [exec, execHget, State.needLive_of_live hv hl, State.finish_respond]

/-- HFREE of a live slot (R158). -/
theorem exec_hfree : exec (.hfree h) s = .next ((s.setHv h false).present { status := .ok, data := 0 }) := by
  rw [exec, execHfree, State.needLive_of_live hv hl, State.finish_respond]

end Live

/-! ## HNEW, HRST, HGET, HFREE (R140, R141, R155, R158, R165) -/

/-- Settles O20: the state of `exec_hnew`; both errors are R220's first statuses. -/
theorem hnewCreatesHasher : Obligations.HnewCreatesHasher := by
  refine ⟨encodedAs_of_argZeroAll rfl (by decide), fun h s => ⟨fun hv hs => ?_, exec_of_no_engine rfl, fun hv hs => ?_⟩⟩
  · exact ⟨_, exec_hnew hv hs, by simp, by simp, onlySlot_effect (i := .hnew h) rfl s _, rfl⟩
  · exact exec_of_badSlot hv (decide_eq_true hs)

/-- Settles O21: the state of `exec_hrst`. -/
theorem hrstRestoresInitialValue : Obligations.HrstRestoresInitialValue := by
  refine ⟨encodedAs_of_argZeroAll rfl (by decide), fun h s => ⟨fun hv hs hh => ?_, exec_without_live rfl rfl⟩⟩
  exact ⟨_, exec_hrst hv ((s.live_iff h).mpr ⟨hs, hh⟩), by simp, hh, onlySlot_effect (i := .hrst h) rfl s _, rfl⟩

/-- Writing the valid bit a slot has already changes nothing. -/
theorem State.setHv_self {s : State} {h : BitVec 8} {v : Bool} (hh : s.hvAt h = v) : s.setHv h v = s := by
  subst hh
  simp [State.setHv, State.hvAt]

/-- Settles O32: HNEW only adds the valid bit, which is set already. -/
theorem hrstEqualsHnewOnLiveSlot : Obligations.HrstEqualsHnewOnLiveSlot := by
  intro h s hv hs hh
  have hnew := exec_hnew hv hs
  rw [State.setHv_self (s := s.setCur h s.eng.init) hh] at hnew
  exact ⟨_, exec_hrst hv ((s.live_iff h).mpr ⟨hs, hh⟩), hnew, by simp⟩

/-- Settles O27: HGET's guard; the datum is `Engine.finalize`'s. -/
theorem hgetFinalizes : Obligations.HgetFinalizes := by
  refine ⟨encodedAs_of_argZeroAll rfl (by decide), fun h s => ⟨fun hv hs hh => ?_, exec_without_live rfl rfl⟩⟩
  exact ⟨_, exec_hget hv ((s.live_iff h).mpr ⟨hs, hh⟩), rfl⟩

/-- Settles O30: the state of `exec_hfree`, in which the slot is not live. -/
theorem hfreeEndsHasher : Obligations.HfreeEndsHasher := by
  refine ⟨encodedAs_of_argZeroAll rfl (by decide), fun h s => ⟨fun hv hs hh => ?_, exec_without_live rfl rfl⟩⟩
  have hfree : (s.setHv h false).hvAt h = false := by simp
  refine ⟨_, exec_hfree hv ((s.live_iff h).mpr ⟨hs, hh⟩), hfree, rfl, onlySlot_effect (i := .hfree h) rfl s _, rfl,
    fun byte offset length i hi => ?_⟩
  simp only [List.mem_cons, List.not_mem_nil, or_false] at hi
  obtain rfl | rfl | rfl | rfl | rfl := hi <;>
    exact (exec_without_live (h := h) rfl rfl).2 hv (.inr hfree)

/-! ## CrcStep (R142, R143) -/

/-- CrcStep reads only W, ENG_REFIN and the entries of TABLE. -/
theorem Engine.crcStep_congr {e e' : Engine} (hw : e.width = e'.width) (hr : e.refin = e'.refin)
    (ht : ∀ d, e.tableAt d = e'.tableAt d) (c : Word) (b : Byte) : e.crcStep c b = e'.crcStep c b := by
  simp only [Engine.crcStep, hw, hr, ht]

/-- Two engines with generated tables and the same W and polynomial have the same TABLE (R122). -/
theorem Engine.tableAt_congr {e e' : Engine} (hv : e.valid = true) (hv' : e'.valid = true) (he : e.valueInv)
    (he' : e'.valueInv) (hw : e.width = e'.width) (hp : e.poly = e'.poly) (d : BitVec 8) :
    e.tableAt d = e'.tableAt d := by
  obtain ⟨-, -, -, htable⟩ := he
  obtain ⟨-, -, -, htable'⟩ := he'
  exact BitVec.eq_of_toNat_eq (by rw [(htable hv d).2, (htable' hv' d).2, hw, hp])

/-- The table index of CrcStep: the accumulator's top byte with the byte folded in (R142 steps 3 and 4). -/
theorem crcIndex_eq {w : Nat} (hw : 8 ≤ w) (c val : Nat) :
    BitVec.ofNat 8 ((((c ^^^ (val <<< (w - 8))) &&& mask w) >>> (w - 8)) &&& 0xFF) =
      BitVec.ofNat 8 ((c >>> (w - 8)) ^^^ val) := by
  apply BitVec.eq_of_toNat_eq
  rw [BitVec.toNat_ofNat, BitVec.toNat_ofNat, ← and_mask, ← and_mask, and_mask_eq_iff]
  intro i hi
  have hin : w - 8 + i < w := by omega
  have hbyte : (255 : Nat).testBit i = true := by
    rw [show 255 = 2 ^ 8 - 1 from rfl, Nat.testBit_two_pow_sub_one]
    exact decide_eq_true hi
  simp [and_mask, hin, hbyte]

/-- The byte folded into the accumulator's top leaves no bit after the shift by 8 (R142 step 5). -/
theorem crcShifted_eq {w : Nat} (hw : 8 ≤ w) (c val : Nat) :
    (((c ^^^ (val <<< (w - 8))) &&& mask w) <<< 8) &&& mask w = (c <<< 8) &&& mask w := by
  rw [and_mask_eq_iff]
  intro i hi
  by_cases h8 : 8 ≤ i
  · have hin : i - 8 < w := by omega
    have hout : ¬ w - 8 ≤ i - 8 := by omega
    simp [and_mask, hin, hout]
  · simp [h8]

/-- CrcStep in closed form, at any W from 8 to 32 whose table entry is a W-bit value (R143 (c), (d)). -/
theorem Engine.crcStep_toNat {e : Engine} (hw : 8 ≤ e.width.toNat) (hw' : e.width.toNat ≤ 32)
    (ht : ∀ d, e.fits (e.tableAt d)) (c : Word) (b : Byte) {val : Nat}
    (hval : val = if e.refin then reverseBits b.toNat 8 else b.toNat) :
    (e.crcStep c b).toNat = ((c.toNat <<< 8) &&& mask e.width.toNat) ^^^
      (e.tableAt (BitVec.ofNat 8 ((c.toNat >>> (e.width.toNat - 8)) ^^^ val))).toNat := by
  have hlt := Nat.xor_lt_two_pow (and_mask_lt (c.toNat <<< 8) e.width.toNat)
    (ht (BitVec.ofNat 8 ((c.toNat >>> (e.width.toNat - 8)) ^^^ val)))
  have h32 := Nat.pow_le_pow_right (show 0 < 2 by decide) hw'
  simp only [Engine.crcStep, ← hval]
  rw [crcIndex_eq hw, crcShifted_eq hw, and_mask, Nat.mod_eq_of_lt hlt, BitVec.toNat_ofNat,
    Nat.mod_eq_of_lt (lt_of_lt_of_le hlt h32)]

/-- Settles O23: (c) and (d) are the closed form, whose shifted accumulator is 0 at W = 8. -/
theorem crcStepProperties : Obligations.CrcStepProperties := by
  refine ⟨fun e c b => e.crcStep_lt c b, fun e e' c b hw hr htable => ?_, fun e c b val hv he _ hval => ?_⟩
  · obtain ht | ⟨hv, hv', he, he', hp⟩ := htable
    · exact Engine.crcStep_congr hw hr (fun d => by simp only [Engine.tableAt, ht]) c b
    · exact Engine.crcStep_congr hw hr (Engine.tableAt_congr hv hv' he he' hw hp) c b
  · obtain ⟨-, -, -, htable⟩ := he
    have hform : 8 ≤ e.width.toNat → e.width.toNat ≤ 32 → _ := fun hw hw' =>
      Engine.crcStep_toNat hw hw' (fun d => (htable hv d).1) c b hval
    constructor
    · intro hw
      apply BitVec.eq_of_toNat_eq
      rw [hform (by simp [hw]) (by simp [hw]), hw]
      simp [and_mask, Nat.shiftLeft_eq]
    · rintro (hw | hw) <;> exact hform (by simp [hw]) (by simp [hw])

/-! ## HUPD and HUPDR (R145, R150) -/

/-- A zero byte on a zero accumulator gives 0, because TABLE[0] = 0 (R145). -/
theorem Engine.crcStep_zero {e : Engine} (hv : e.valid = true) (he : e.valueInv) : e.crcStep 0 0 = 0 := by
  have hrev : reverseBits 0 8 = 0 := by decide
  simp [Engine.crcStep, hrev, show e.tableAt 0#8 = 0 from Engine.tableAt_zero hv he]

/-- Settles O22: the state of `exec_hupd`, and TABLE[0] = 0 for the fixed point. -/
theorem hupdFoldsOneByte : Obligations.HupdFoldsOneByte := by
  refine ⟨encodedAs_of_argZeroAll rfl (by decide), fun h byte s => ⟨fun hv hs hh => ?_, exec_without_live rfl rfl⟩⟩
  have hcur : (s.setCur h (s.eng.crcStep (s.curAt h) byte)).curAt h = s.eng.crcStep (s.curAt h) byte := by simp
  refine ⟨_, exec_hupd hv ((s.live_iff h).mpr ⟨hs, hh⟩) byte, hcur, hh, onlySlot_effect (i := .hupd h byte) rfl s _, rfl,
    fun hinv hzero hbyte => ?_⟩
  obtain ⟨-, hvalue, -⟩ := hinv
  rw [State.curAt_present, hcur, hzero, hbyte, Engine.crcStep_zero hv hvalue]

/-- Settles O25: the state of `exec_hupdr`, its chain written as a fold; a bad range is the last status of R220. -/
theorem hupdrFoldsBufferRange : Obligations.HupdrFoldsBufferRange := by
  refine ⟨encodedAs_of_argZeroNone rfl (by decide), fun h offset length s => ?_⟩
  obtain ⟨hnone, hfree⟩ := exec_without_live (i := .hupdr h offset length) (s := s) (h := h) rfl rfl
  refine ⟨fun hv hs hh hr => ?_, hnone, hfree, fun hv hs hh hr => ?_⟩
  · exact ⟨_, exec_hupdr hv ((s.live_iff h).mpr ⟨hs, hh⟩) hr, by simp [State.crcChain_eq_foldl], hh,
      onlySlot_effect (i := .hupdr h offset length) rfl s _, rfl⟩
  · exact exec_of_firstStatus (by simp [firstStatus, badSlot, badParameter, badRange, hv, hs, hh, hr]) (by decide)

/-! ## Chunking (R152) -/

/-- Writing an accumulator does not change a chain from a given value: it reads only the engine and BUF. -/
@[simp] theorem State.crcChain_setCur (s : State) (h : BitVec 8) (v c : Word) (off n : Nat) :
    (s.setCur h v).crcChain c off n = s.crcChain c off n := by
  simp [State.crcChain_eq_foldl]

/-- A pending response does not change a chain. -/
@[simp] theorem State.crcChain_present (s : State) (r : Response) (c : Word) (off n : Nat) :
    (s.present r).crcChain c off n = s.crcChain c off n := by
  simp [State.crcChain_eq_foldl]

/-- The chain over two adjoining ranges is the chain over both. -/
theorem State.crcChain_add (s : State) (c : Word) (off m n : Nat) :
    s.crcChain c off (m + n) = s.crcChain (s.crcChain c off m) (off + m) n := by
  induction n with
  | zero => rfl
  | succ n ih => rw [← Nat.add_assoc, State.crcChain, State.crcChain, ih, Nat.add_assoc]

/-- One HUPD per byte folds the bytes into a live slot in order, the slot stays live and the engine stays. -/
theorem execAll_hupd {h : BitVec 8} (bytes : List Byte) {s : State} (hv : s.eng.valid = true) (hl : s.live h = true) :
    ∃ t, execAll (bytes.map fun b => .hupd h b) s = some t ∧
      t.curAt h = bytes.foldl s.eng.crcStep (s.curAt h) ∧ t.live h = true ∧ t.eng = s.eng := by
  induction bytes generalizing s with
  | nil => exact ⟨s, rfl, rfl, hl, rfl⟩
  | cons b rest ih =>
    obtain ⟨t, ht, hcur, hlive, heng⟩ :=
      ih (s := (s.setCur h (s.eng.crcStep (s.curAt h) b)).present { status := .ok, data := 0 }) hv hl
    refine ⟨t, ?_, by simpa using hcur, hlive, heng⟩
    rw [List.map_cons, execAll, exec_hupd hv hl]
    exact ht

/-- Two HUPDRs of adjoining ranges leave a live slot the chain over both, the slot stays live and the engine stays. -/
theorem execAll_hupdr_hupdr {s : State} {h : BitVec 8} {o a b : Nat} (hv : s.eng.valid = true) (hl : s.live h = true)
    (hr : o + a + b ≤ s.params.bufBytes) :
    ∃ t, execAll [.hupdr h (BitVec.ofNat 32 o) (BitVec.ofNat 32 a),
        .hupdr h (BitVec.ofNat 32 (o + a)) (BitVec.ofNat 32 b)] s = some t ∧
      t.curAt h = s.crcChain (s.curAt h) o (a + b) ∧ t.live h = true ∧ t.eng = s.eng := by
  have hfirst := exec_hupdr_ofNat hv hl (o := o) (n := a) (by omega)
  have hsecond := exec_hupdr_ofNat
    (s := (s.setCur h (s.crcChain (s.curAt h) o a)).present { status := .ok, data := 0 }) hv hl hr
  simp only [execAll, hfirst, hsecond]
  exact ⟨_, rfl, by simp [s.crcChain_add], hl, rfl⟩

/-- HGET of a live slot reads the engine and the slot's accumulator only. -/
theorem exec_hget_of_curAt {t : State} {h : BitVec 8} {e : Engine} {c : Word} (hv : e.valid = true)
    (hc : t.curAt h = c) (hl : t.live h = true) (heng : t.eng = e) :
    exec (.hget h) t = .next (t.present { status := .ok, data := e.finalize c }) := by
  subst hc heng
  exact exec_hget hv hl

/-- Settles O26: each of the three leaves the chain over the whole range in the slot, and HGET reads only that. -/
theorem chunkingInvariance : Obligations.ChunkingInvariance := by
  intro s h o a b hv hs hh hr
  have hl := (s.live_iff h).mpr ⟨hs, hh⟩
  have honce := exec_hupdr_ofNat hv hl (o := o) (n := a + b) (by omega)
  have hcur : (s.setCur h (s.crcChain (s.curAt h) o (a + b))).curAt h = s.crcChain (s.curAt h) o (a + b) := by simp
  obtain ⟨u, hu, hucur, hulive, hueng⟩ := execAll_hupdr_hupdr hv hl hr
  obtain ⟨w, hw, hwcur, hwlive, hweng⟩ := execAll_hupd ((List.range (a + b)).map fun i => s.memRead (o + i)) hv hl
  rw [← State.crcChain_eq_foldl] at hwcur
  rw [List.map_map] at hw
  exact ⟨_, u, w, _, honce, hu, hw, hucur.trans hcur.symm, hwcur.trans hcur.symm,
    exec_hget_of_curAt hv hcur hl rfl, exec_hget_of_curAt hv hucur hulive hueng,
    exec_hget_of_curAt hv hwcur hwlive hweng⟩

/-! ## BUFWR (R160) -/

/-- BUFWR's loop leaves every register, slot and the rest. -/
theorem State.writeBytes_frame (s : State) (off : Nat) (data : Word) (n : Nat) :
    (s.writeBytes off data n).eng = s.eng ∧ (s.writeBytes off data n).stg = s.stg ∧
    s.SameSlots (s.writeBytes off data n) ∧ s.SameRest (s.writeBytes off data n) := by
  rw [State.writeBytes_eq]
  exact ⟨rfl, rfl, fun _ => ⟨rfl, rfl⟩, rfl, rfl, rfl, rfl⟩

/-- Settles O31: the bytes of BUFWR's loop, or the range error. -/
theorem bufwrWritesBytes : Obligations.BufwrWritesBytes := by
  refine ⟨encodedAs_of_find (lo := 2) (len := 22) rfl (by decide) fun b =>
    and_congr_right' (and_argZeroAboveCount_eq_zero_iff b).symm, fun cnt offset data s => ⟨fun hr => ?_, fun hr => ?_⟩⟩
  · have hexec : exec (.bufwr cnt offset data) s =
        .next ((s.writeBytes offset.toNat data (byteCount cnt)).present { status := .ok, data := 0 }) := by
      rw [exec, execBufwr, State.needRange_of_le (n := byteCount cnt) hr, State.finish_respond]
    obtain ⟨heng, hstg, hslots, hrest⟩ := s.writeBytes_frame offset.toNat data (byteCount cnt)
    refine ⟨_, hexec, fun k hk => ⟨?_, ?_⟩, fun a ha => ⟨?_, ?_⟩, heng, hstg, hslots, hrest, rfl⟩
    · simp [State.memRead_writeBytes, byteCount, hk, dataByte]
    · simp [State.bufWritten_writeBytes, byteCount, hk]
    · rw [State.memRead_present, State.memRead_writeBytes, if_neg (by rw [byteCount]; omega)]
    · rw [State.bufWritten_present, State.bufWritten_writeBytes, decide_eq_false (by rw [byteCount]; omega), Bool.false_or]
  · exact exec_of_firstStatus (by simp [firstStatus, needsEngine, badSlot, badParameter, badRange, hr, Nat.add_assoc])
      (by decide)

end Machine

end Sys2Proof

/-! # Proofs of the reflection command's statements (spec/42_reflection.md)

Reverse(v, n + 1) is Reverse(v, n) with bit n of v put below it (`reverseBits_succ`), so its bits are known by induction
on n (`testBit_reverseBits`), and every fact about Reverse is read off its bits. -/

namespace Sys2Proof.Machine

/-! ## The bits of Reverse (R180) -/

/-- One more input bit enters at bit 0, and every bit already there moves up one place. -/
theorem reverseBits_succ (v n : Nat) : reverseBits v (n + 1) = Nat.bit (v.testBit n) (reverseBits v n) := by
  have hterm : ∀ i ∈ List.range n,
      (v.testBit i).toNat <<< (n + 1 - 1 - i) = 2 * (v.testBit i).toNat <<< (n - 1 - i) := by
    intro i hi
    have hexp : n + 1 - 1 - i = n - 1 - i + 1 := by
      have hlt := List.mem_range.mp hi
      omega
    rw [hexp, Nat.shiftLeft_succ]
  rw [reverseBits, List.range_succ, List.map_append, List.sum_append, List.map_congr_left hterm, List.sum_map_mul_left]
  simp [Nat.bit_val, reverseBits]

/-- Bit j of Reverse(v, n) is bit n - 1 - j of v, and no bit at or above n is set. -/
theorem testBit_reverseBits (v n j : Nat) :
    (reverseBits v n).testBit j = (decide (j < n) && v.testBit (n - 1 - j)) := by
  induction n generalizing j with
  | zero => simp [reverseBits]
  | succ n ih =>
    rw [reverseBits_succ]
    cases j with
    | zero => simp
    | succ j => simp [Nat.testBit_bit_succ, ih, Nat.sub_sub, Nat.add_comm 1]

/-- Bit i of the input becomes bit n - 1 - i of the result. -/
theorem testBit_reverseBits_swap {n i : Nat} (v : Nat) (hi : i < n) :
    (reverseBits v n).testBit (n - 1 - i) = v.testBit i := by
  have hlt : n - 1 - i < n := by omega
  have hback : n - 1 - (n - 1 - i) = i := by omega
  simp [testBit_reverseBits, hlt, hback]

theorem reverseBits_lt_two_pow (v n : Nat) : reverseBits v n < 2 ^ n := by
  refine Nat.lt_pow_two_of_testBit _ fun i hi => ?_
  simp [testBit_reverseBits, Nat.not_lt.mpr hi]

/-- Reverse(v, n) reads only the bits of v below n. -/
theorem reverseBits_congr {v v' n : Nat} (h : ∀ i < n, v.testBit i = v'.testBit i) :
    reverseBits v n = reverseBits v' n := by
  refine Nat.eq_of_testBit_eq fun j => ?_
  rw [testBit_reverseBits, testBit_reverseBits]
  by_cases hj : j < n
  · rw [h (n - 1 - j) (by omega)]
  · simp [hj]

/-- Settles O33: the clauses are the bits of Reverse and what they imply. -/
theorem reverseBitsSwapsPositions : Obligations.ReverseBitsSwapsPositions := by
  refine fun v n _ => ⟨reverseBits_lt_two_pow v n, fun i hi => testBit_reverseBits_swap v hi, rfl, ?_⟩
  refine reverseBits_congr fun i hi => ?_
  simp [Nat.testBit_mod_two_pow, hi]

/-- Two reflections of n bits give every bit below n its place back (R183). -/
theorem reverseBits_reverseBits {x n : Nat} (hx : x < 2 ^ n) : reverseBits (reverseBits x n) n = x := by
  refine Nat.eq_of_testBit_eq fun j => ?_
  rw [testBit_reverseBits]
  by_cases hj : j < n
  · rw [decide_eq_true hj, Bool.true_and, testBit_reverseBits_swap x hj]
  · have hzero : x.testBit j = false :=
      Nat.testBit_lt_two_pow (hx.trans_le (Nat.pow_le_pow_right (by decide) (Nat.not_lt.mp hj)))
    rw [decide_eq_false hj, Bool.false_and, hzero]

/-! ## REVB (R181 to R183) -/

/-- REVB answers OK with the reflection, whatever the state (R181). -/
theorem exec_revb (n : BitVec 6) (v : Long) (s : State) : exec (.revb n v) s =
    .next (s.present { status := .ok, data := BitVec.ofNat 64 (reverseBits v.toNat n.toNat) }) := rfl

/-- The response datum holds the whole reflection: it has at most 63 bits. -/
theorem toNat_ofNat_reverseBits (n : BitVec 6) (v : Nat) :
    (BitVec.ofNat 64 (reverseBits v n.toNat)).toNat = reverseBits v n.toNat := by
  have hlt : reverseBits v n.toNat < 2 ^ 64 :=
    (reverseBits_lt_two_pow v n.toNat).trans (Nat.pow_lt_pow_right (by decide) n.isLt)
  exact Nat.mod_eq_of_lt hlt

/-- Settles O36: REVB's datum is below 2^NBITS with no bit lost, so the second REVB reflects the reflection. -/
theorem reflectionInvolution : Obligations.ReflectionInvolution := by
  refine ⟨fun x n _ hx => reverseBits_reverseBits hx, fun n v s hv => ⟨_, exec_revb n v s, ?_⟩⟩
  rw [exec_revb, toNat_ofNat_reverseBits, reverseBits_reverseBits hv, BitVec.ofNat_toNat, BitVec.setWidth_eq]

/-- The encoding of REVB: CMD[23:6] is reserved and no bit of ARG is (R90). -/
theorem encodedAs_revb :
    EncodedAs 0x30 (fun b => b.cmd.extractLsb' 6 18 = 0) (fun b => .revb (b.cmd.extractLsb' 0 6) b.arg) :=
  encodedAs_of_argZeroNone rfl (by decide)

/-- Settles O34: the encoding and the answer of REVB. -/
theorem revbReflectsOperand : Obligations.RevbReflectsOperand := ⟨encodedAs_revb, exec_revb⟩

/-- Reverse(v, 1) is bit 0 of v (R182 (b)). -/
theorem reverseBits_one (v : Nat) : reverseBits v 1 = v % 2 := by
  simp [reverseBits, Nat.toNat_testBit]

/-- REVB answers alike on operands that agree below bit 63, the highest bit NBITS can reach (R182 (c)). -/
theorem reverseBits_of_extractLsb'_eq {v v' : Long} (h : v.extractLsb' 0 63 = v'.extractLsb' 0 63) (n : BitVec 6) :
    reverseBits v.toNat n.toNat = reverseBits v'.toNat n.toNat := by
  refine reverseBits_congr fun i hi => ?_
  have hlt : i < 63 := Nat.lt_of_lt_of_le hi (Nat.le_of_lt_succ n.isLt)
  simpa [hlt, BitVec.testBit_toNat] using congrArg (·.getLsbD i) h

/-- Settles O35: NBITS of 0 and 1 by evaluating Reverse, (c) by the bits it reads, (d) by a reserved bit that is set. -/
theorem revbCornerCases : Obligations.RevbCornerCases := by
  refine ⟨fun _ _ => rfl, fun v s => ?one, fun n v v' s h => ?top, fun b s hop h6 => ?reserved, fun s => ?worked⟩
  case one =>
    have hdata : BitVec.ofNat 64 (v.toNat % 2) = (v.extractLsb' 0 1).setWidth 64 := by
      simp [← BitVec.toNat_inj]
    rw [exec_revb, ← hdata, ← reverseBits_one]
    rfl
  case top =>
    refine ⟨_, exec_revb n v s, ?_, ?_⟩
    · rw [exec_revb, reverseBits_of_extractLsb'_eq h]
    · rw [toNat_ofNat_reverseBits]
      exact reverseBits_lt_two_pow v.toNat n.toNat
  case reserved =>
    refine (encodedAs_revb b hop).2 (fun hz => ?_) s
    have hbit : b.cmd.getLsbD 6 = false := by simpa using congrArg (·.getLsbD 0) hz
    exact Bool.false_ne_true (hbit.symm.trans h6)
  case worked =>
    have hdata : BitVec.ofNat 64 (reverseBits (0x8000000000000001 : Long).toNat (63 : BitVec 6).toNat) =
        0x4000000000000000 := by decide
    rw [exec_revb, hdata]

end Sys2Proof.Machine

/-! # Proofs of the statuses' statements (spec/60_exceptions.md)

The order of R220 is the order of every command's guards (`exec_answers`); Decode runs before them (R91). -/

namespace Sys2Proof.Machine

/-- A decoded command answers with the first status that applies to it (R220). -/
theorem exec_reports_firstStatus (i : Instr) (s : State) :
    ∃ t r, exec i s = .next t ∧ t.port.pend = some r ∧ r.status = firstStatus s i := by
  obtain ⟨-, he⟩ | ⟨hok, d, he⟩ := exec_cases i s
  · exact ⟨_, _, he, rfl, rfl⟩
  · exact ⟨_, _, he, rfl, hok.symm⟩

/-- Settles O5: a rejected beat answers ILLEGAL_COMMAND, a decoded one as its command does. -/
theorem statusIsFirstThatApplies : Obligations.StatusIsFirstThatApplies := by
  intro b s
  cases hd : decode b with
  | error e => exact ⟨_, _, runBeat_of_error hd s, rfl, rfl⟩
  | ok i =>
    rw [runBeat_of_decode hd]
    exact exec_reports_firstStatus i s

end Sys2Proof.Machine

/-! # Proofs of the hardware reset's statements (spec/70_reset_and_hazards.md)

Reset comes first at an edge: with rst_n = 0 neither the port nor the beat offered decides what the edge does, and the state
it leaves is `State.resetWith`'s but for the fresh draw of BUF and the host, which R45's table does not speak of. -/

namespace Sys2Proof.Machine

/-- rst_n = 0 forces cmd_ready = 0 (R81(e)). -/
theorem State.cmdReady_of_rstN_false (s : State) {p : Pins} (hp : p.rstN = false) : s.cmdReady p = false := by
  simp [State.cmdReady, hp]

/-- rst_n = 0 hides a pending response (R81(e)). -/
theorem State.rspPort_of_rstN_false (s : State) {p : Pins} (hp : p.rstN = false) : s.rspPort p = none := by
  simp [State.rspPort, hp]

theorem State.rspValid_of_rstN_false (s : State) {p : Pins} (hp : p.rstN = false) : s.rspValid p = false := by
  rw [State.rspValid, s.rspPort_of_rstN_false hp, Option.isSome_none]

/-- Reset is looked at before the port (R230). -/
theorem clockEdge_of_rstN_false {p : Pins} (hp : p.rstN = false) (s : State) : clockEdge p s = .next s.hardReset := by
  simp [clockEdge, hp]

/-- A hardware reset gives every register its value of R45, as at power-on. -/
theorem isReset_hardReset (s : State) : s.hardReset.IsReset := isReset_resetWith s.params

/-- Settles O46: the edge is a hardware reset, which keeps the host and so delivers no response. -/
theorem hardwareResetAtAnyEdge : Obligations.HardwareResetAtAnyEdge := by
  intro s p rest hedges hp
  have hstep : step s = .next (s.setEdges rest).hardReset := by
    rw [step_cons hedges, clockEdge_of_rstN_false hp]
  exact ⟨s.cmdReady_of_rstN_false hp, s.rspValid_of_rstN_false hp, _, hstep, isReset_hardReset _, rfl, rfl, rfl⟩

end Sys2Proof.Machine

/-! # Proofs of the encoding's statements (spec/30_encoding.md sections 2 and 3)

A row of R90 divides CMD into the bits of its mask, which decoding compares with the pattern, and the fields, which it reads.
Encoding puts the pattern and the fields back, so the two undo each other (`roundTrips_of_masks`); in the other direction
each field is read back at its own place, where no other field is seen. -/

namespace Sys2Proof

/-! ## A beat that decodes is an encoding (R90, R91) -/

/-- What decodes has a row of the opcode map with its opcode, whose reserved bits are all 0 (R91). -/
theorem decode_eq_ok {b : Beat} {i : Instr} (h : decode b = .ok i) :
    ∃ row ∈ opcodeMap, b.cmd &&& row.mask = row.pattern ∧ b.arg &&& row.argZero b = 0 ∧ i = row.build b := by
  unfold decode at h
  split at h
  next => cases h
  next row hfind =>
    unfold decodeRow at h
    split_ifs at h with hcmd harg
    cases h
    exact ⟨row, List.mem_of_find?_eq_some hfind, not_not.mp hcmd, not_not.mp harg, rfl⟩

/-- A field of a value, put back at its own place, is the value under the field's mask. -/
theorem setWidth_extractLsb'_shiftLeft {w : Nat} (v : BitVec w) (lo len : Nat) :
    (v.extractLsb' lo len).setWidth w <<< lo = v &&& fieldMask w lo len := by
  refine BitVec.eq_of_getLsbD_eq fun i hi => ?_
  rw [BitVec.getLsbD_and, getLsbD_fieldMask hi]
  rcases Nat.lt_or_ge i lo with hlt | hge
  · have hnot : ¬ lo ≤ i := by omega
    simp [hlt, hnot]
  · have hnot : ¬ i < lo := by omega
    have hsub : i - lo < w := by omega
    have hlen : i - lo < len ↔ i < lo + len := by omega
    rw [BitVec.getLsbD_shiftLeft, BitVec.getLsbD_setWidth, BitVec.getLsbD_extractLsb', Nat.add_sub_cancel' hge]
    simp [hi, hge, hnot, hsub, hlen, Bool.and_comm]

theorem inCmd_extractLsb' (cmd : Word) (lo len : Nat) :
    inCmd (cmd.extractLsb' lo len) lo = cmd &&& fieldMask 32 lo len := setWidth_extractLsb'_shiftLeft cmd lo len

theorem inArg_extractLsb' (arg : Long) (lo len : Nat) :
    inArg (arg.extractLsb' lo len) lo = arg &&& fieldMask 64 lo len := setWidth_extractLsb'_shiftLeft arg lo len

/-- A flag is a field of one bit. -/
theorem ofBool_getLsbD_eq_extractLsb' {w : Nat} (v : BitVec w) (k : Nat) :
    BitVec.ofBool (v.getLsbD k) = v.extractLsb' k 1 := by
  refine BitVec.eq_of_getLsbD_eq fun i hi => ?_
  obtain rfl : i = 0 := by omega
  simp

/-- The bits a mask compares and those it leaves, put together. -/
theorem or_and_eq_self {w : Nat} {v mask rest pattern : BitVec w} (hv : v &&& mask = pattern)
    (hall : mask ||| rest = BitVec.allOnes w) : pattern ||| v &&& rest = v := by
  rw [← hv, ← BitVec.and_or_distrib_left, hall, BitVec.and_allOnes]

/-- Every beat that passes the row's checks is the encoding of the well-formed command the row builds. -/
def OpRow.RoundTrips (row : OpRow) : Prop :=
  ∀ b : Beat, b.cmd &&& row.mask = row.pattern → b.arg &&& row.argZero b = 0 →
    (row.build b).wf = true ∧ encode (row.build b) = b

/-- A row round-trips when its command's fields take exactly the bits that its checks leave: of CMD those of `cmdRest`, of
ARG those of `argRest`. -/
theorem roundTrips_of_masks {row : OpRow} (cmdRest : Word) (argRest : Long)
    (hcmd : row.mask ||| cmdRest = BitVec.allOnes 32) (harg : ∀ b, row.argZero b ||| argRest = BitVec.allOnes 64)
    (hencode : ∀ b, encode (row.build b) = ⟨row.pattern ||| b.cmd &&& cmdRest, b.arg &&& argRest⟩)
    (hwf : ∀ b, b.arg &&& row.argZero b = 0 → (row.build b).wf = true) : row.RoundTrips := by
  intro b hc ha
  have hargs : b.arg &&& argRest = b.arg := by simpa using or_and_eq_self ha (harg b)
  rw [hencode, or_and_eq_self hc hcmd, hargs]
  exact ⟨hwf b ha, rfl⟩

/-- BUFWR's data bytes above the count are 0 when ARG's reserved bits are (R93). -/
theorem dataBytesAboveCountZero_of_argZero {b : Beat} (h : b.arg &&& argZeroAboveCount b = 0) :
    dataBytesAboveCountZero b.low2 b.argHigh = true := by
  have hcnt : b.low2.toNat < 4 := b.low2.isLt
  have hmask : argZeroAboveCount b = fieldMask 64 (32 + 8 * (b.low2.toNat + 1)) (8 * (3 - b.low2.toNat)) :=
    allOnes_shiftLeft_eq_fieldMask (by omega)
  rw [hmask, and_fieldMask_eq_zero_iff b.arg (by omega)] at h
  refine beq_iff_eq.mpr (BitVec.eq_of_getLsbD_eq fun i _ => ?_)
  rw [BitVec.getLsbD_ushiftRight, BitVec.ofNat_eq_ofNat, BitVec.getLsbD_zero]
  by_cases hi : i < 8 * (3 - b.low2.toNat)
  · have hbit := congrArg (·.getLsbD i) h
    simp only [BitVec.getLsbD_extractLsb', hi, decide_true, Bool.true_and, BitVec.ofNat_eq_ofNat,
      BitVec.getLsbD_zero, Nat.add_assoc] at hbit
    rw [Beat.argHigh, BitVec.getLsbD_extractLsb', hbit, Bool.and_false]
  · exact BitVec.getLsbD_of_ge _ _ (by omega)

/-- A row whose ARG is reserved whole round-trips when its command's fields take the bits of CMD that its mask leaves. -/
theorem roundTrips_of_argZeroAll {row : OpRow} (cmdRest : Word) (hcmd : row.mask ||| cmdRest = BitVec.allOnes 32)
    (harg : row.argZero = argZeroAll)
    (hencode : ∀ b, encode (row.build b) = ⟨row.pattern ||| b.cmd &&& cmdRest, 0⟩)
    (hwf : ∀ b, (row.build b).wf = true) : row.RoundTrips := by
  have hall : argZeroAll = fun _ => BitVec.allOnes 64 := rfl
  exact roundTrips_of_masks cmdRest 0 hcmd (by simp [harg, hall]) (by simpa using hencode) fun b _ => hwf b

/-- A row whose ARG[63:32] is reserved and whose fields are ARG[31:0] round-trips. -/
theorem roundTrips_of_argZeroHigh {row : OpRow} (hcmd : row.mask = BitVec.allOnes 32) (harg : row.argZero = argZeroHigh)
    (hencode : ∀ b, encode (row.build b) = ⟨row.pattern, inArg b.argLow 0⟩)
    (hwf : ∀ b, (row.build b).wf = true) : row.RoundTrips := by
  have hhigh : argZeroHigh = fun _ => fieldMask 64 32 32 := rfl
  have hall : fieldMask 64 32 32 ||| fieldMask 64 0 32 = BitVec.allOnes 64 := by decide
  refine roundTrips_of_masks 0 (fieldMask 64 0 32) (by simp [hcmd]) (by simp [harg, hhigh, hall]) (fun b => ?_)
    fun b _ => hwf b
  simp [hencode, Beat.argLow, inArg_extractLsb']

/-- Every row of the engine commands round-trips. -/
theorem engineRows_roundTrip : ∀ row ∈ engineRows, row.RoundTrips := by
  simp only [engineRows, List.forall_mem_cons, List.not_mem_nil, false_implies, implies_true, and_true]
  refine ⟨?nop, ?setpoly, ?setinit, ?setxor, ?config, ?info, ?tabrd⟩
  case nop => exact roundTrips_of_argZeroAll 0 (by decide) rfl (by simp [encode]) fun _ => rfl
  case setpoly | setinit | setxor => exact roundTrips_of_argZeroHigh (by decide) rfl (fun _ => rfl) fun _ => rfl
  case config =>
    refine roundTrips_of_argZeroAll (fieldMask 32 9 1 ||| fieldMask 32 8 1 ||| fieldMask 32 0 8) (by decide) rfl
      (fun b => ?_) fun _ => rfl
    simp only [encode, Beat.low8, ofBool_getLsbD_eq_extractLsb', inCmd_extractLsb', BitVec.and_or_distrib_left,
      BitVec.or_assoc]
  case info =>
    exact roundTrips_of_argZeroAll (fieldMask 32 0 2) (by decide) rfl
      (fun b => by rw [encode, Beat.low2, inCmd_extractLsb']) fun _ => rfl
  case tabrd =>
    exact roundTrips_of_argZeroAll (fieldMask 32 0 8) (by decide) rfl
      (fun b => by rw [encode, Beat.low8, inCmd_extractLsb']) fun _ => rfl

/-- Every row of the hasher commands round-trips. -/
theorem hasherRows_roundTrip : ∀ row ∈ hasherRows, row.RoundTrips := by
  simp only [hasherRows, List.forall_mem_cons, List.not_mem_nil, false_implies, implies_true, and_true]
  refine ⟨?hnew, ?hrst, ?hupd, ?hupdr, ?hget, ?hfree⟩
  case hnew | hrst | hget | hfree =>
    exact roundTrips_of_argZeroAll (fieldMask 32 16 8) (by decide) rfl
      (fun b => by rw [encode, Beat.h, inCmd_extractLsb']) fun _ => rfl
  case hupd =>
    refine roundTrips_of_argZeroAll (fieldMask 32 16 8 ||| fieldMask 32 0 8) (by decide) rfl (fun b => ?_) fun _ => rfl
    rw [encode, Beat.h, Beat.low8, inCmd_extractLsb', inCmd_extractLsb', BitVec.and_or_distrib_left, BitVec.or_assoc]
  case hupdr =>
    refine roundTrips_of_masks (fieldMask 32 16 8) (fieldMask 64 32 32 ||| fieldMask 64 0 32) (by decide)
      (fun b => ?_) (fun b => ?_) fun _ _ => rfl
    · exact (by decide : (0 : Long) ||| (fieldMask 64 32 32 ||| fieldMask 64 0 32) = BitVec.allOnes 64)
    · rw [encode, Beat.h, Beat.argLow, Beat.argHigh, inCmd_extractLsb', inArg_extractLsb', inArg_extractLsb',
        BitVec.and_or_distrib_left]

/-- Every row of the buffer and reflection commands round-trips. -/
theorem bufferRows_roundTrip : ∀ row ∈ bufferRows, row.RoundTrips := by
  simp only [bufferRows, List.forall_mem_cons, List.not_mem_nil, false_implies, implies_true, and_true]
  constructor
  case left =>
    refine roundTrips_of_masks (fieldMask 32 0 2) (fieldMask 64 32 32 ||| fieldMask 64 0 32) (by decide)
      (fun b => ?_) (fun b => ?_) fun b hb => dataBytesAboveCountZero_of_argZero hb
    · rw [show fieldMask 64 32 32 ||| fieldMask 64 0 32 = BitVec.allOnes 64 by decide, BitVec.or_allOnes]
    · rw [encode, Beat.low2, Beat.argLow, Beat.argHigh, inCmd_extractLsb', inArg_extractLsb', inArg_extractLsb',
        BitVec.and_or_distrib_left]
  case right =>
    refine roundTrips_of_masks (fieldMask 32 0 6) (BitVec.allOnes 64) (by decide) (fun b => BitVec.or_allOnes)
      (fun b => ?_) fun _ _ => rfl
    rw [encode, Beat.low6, inCmd_extractLsb', BitVec.and_allOnes]

theorem opcodeMap_roundTrip {row : OpRow} (h : row ∈ opcodeMap) : row.RoundTrips := by
  obtain h | h | h : row ∈ engineRows ∨ row ∈ hasherRows ∨ row ∈ bufferRows := by simpa [opcodeMap] using h
  · exact engineRows_roundTrip row h
  · exact hasherRows_roundTrip row h
  · exact bufferRows_roundTrip row h

/-- Settles O2: the beat passed the checks of a row, and every row round-trips. -/
theorem encodeOfDecodeIsBeat : Obligations.EncodeOfDecodeIsBeat := by
  intro b i h
  obtain ⟨row, hrow, hcmd, harg, rfl⟩ := decode_eq_ok h
  exact opcodeMap_roundTrip hrow b hcmd harg

/-! ## An encoding decodes (R87, R91) -/

theorem getLsbD_inCmd {w : Nat} (v : BitVec w) {k i : Nat} (hi : i < 32) :
    (inCmd v k).getLsbD i = (decide (k ≤ i) && v.getLsbD (i - k)) := by
  have hsub : i - k < 32 := by omega
  by_cases hk : k ≤ i <;> simp [-BitVec.getLsbD_eq_getElem, inCmd, hi, hk, hsub]

/-- A field of CMD is read back at its own place. -/
@[simp] theorem extractLsb'_inCmd_self {w k : Nat} (v : BitVec w) (h : k + w ≤ 32) : (inCmd v k).extractLsb' k w = v := by
  refine BitVec.eq_of_getLsbD_eq fun i hi => ?_
  rw [BitVec.getLsbD_extractLsb', getLsbD_inCmd v (by omega)]
  simp [hi]

/-- A field of CMD is not seen beside its own place. -/
@[simp] theorem extractLsb'_inCmd_disjoint {w k lo len : Nat} (v : BitVec w) (h : lo + len ≤ k ∨ k + w ≤ lo)
    (h32 : lo + len ≤ 32) : (inCmd v k).extractLsb' lo len = 0 := by
  refine BitVec.eq_of_getLsbD_eq fun i hi => ?_
  rw [BitVec.getLsbD_extractLsb', getLsbD_inCmd v (by omega)]
  by_cases hk : k ≤ lo + i
  · rw [BitVec.getLsbD_of_ge v (lo + i - k) (by omega)]
    simp
  · simp [hk]

/-- A field of ARG is read back at its own place. -/
@[simp] theorem extractLsb'_inArg_self {w k : Nat} (v : BitVec w) (h : k + w ≤ 64) : (inArg v k).extractLsb' k w = v :=
  Machine.extractLsb'_inData_self v h

/-- A field of ARG is not seen beside its own place. -/
@[simp] theorem extractLsb'_inArg_disjoint {w k lo len : Nat} (v : BitVec w) (h : lo + len ≤ k ∨ k + w ≤ lo)
    (h64 : lo + len ≤ 64) : (inArg v k).extractLsb' lo len = 0 :=
  Machine.extractLsb'_inData_disjoint v h h64

/-- A command decodes to itself when its encoding has the row's opcode, no reserved bit set, and its fields where the row
reads them. The last two are read off the encoding, field by field. -/
theorem decode_encode_of_encodedAs {op : BitVec 8} {zeros : Beat → Prop} {build : Beat → Instr} {i : Instr}
    (h : Machine.EncodedAs op zeros build) (hop : (encode i).opcode = op)
    (hzeros : zeros (encode i) := by simp [encode, BitVec.extractLsb'_or])
    (hbuild : build (encode i) = i := by simp [encode, BitVec.extractLsb'_or]) : decode (encode i) = .ok i := by
  rw [(h (encode i) hop).1 hzeros, hbuild]

/-- The data bytes above the count of a well-formed BUFWR are 0 (R93). -/
theorem extractLsb'_of_dataBytesAboveCountZero {cnt : BitVec 2} {data : Word} {k : Nat}
    (h : dataBytesAboveCountZero cnt data = true) (hk : cnt.toNat < k) : data.extractLsb' (8 * k) 8 = 0 := by
  refine BitVec.eq_of_getLsbD_eq fun i hi => ?_
  have hbit := congrArg (·.getLsbD (8 * k + i - 8 * (cnt.toNat + 1))) (beq_iff_eq.mp h)
  rw [BitVec.getLsbD_ushiftRight, Nat.add_sub_cancel' (by omega)] at hbit
  rw [BitVec.getLsbD_extractLsb', hbit]
  simp

/-- A byte of ARG's upper half is a byte of the word placed there. -/
theorem extractLsb'_inArg_high {data : Word} {k : Nat} (hk : k < 4) :
    (inArg data 32).extractLsb' (32 + 8 * k) 8 = data.extractLsb' (8 * k) 8 := by
  refine BitVec.eq_of_getLsbD_eq fun i hi => ?_
  have hdatum : inArg data 32 = Machine.inData data 32 := rfl
  rw [hdatum, BitVec.getLsbD_extractLsb', Machine.getLsbD_inData data (by omega), BitVec.getLsbD_extractLsb']
  simp [Nat.add_assoc]

/-- Settles O1: the opcode, the reserved bits and the fields of each encoding, against its row of R90. -/
theorem decodeOfEncodeIsInstr : Obligations.DecodeOfEncodeIsInstr := by
  intro i hwf
  cases i with
  | nop => exact decode_encode_of_encodedAs Machine.nopAnswersOk.1 Laws.EncodedOpcode.nop (by decide) rfl
  | setpoly v =>
    exact decode_encode_of_encodedAs Machine.setpolyLoadsStagingPolynomial.1 (Laws.EncodedOpcode.setpoly v)
  | setinit v =>
    exact decode_encode_of_encodedAs Machine.setinitLoadsStagingInitialValue.1 (Laws.EncodedOpcode.setinit v)
  | setxor v =>
    exact decode_encode_of_encodedAs Machine.setxorLoadsStagingFinalXor.1 (Laws.EncodedOpcode.setxor v)
  | config w ri ro =>
    exact decode_encode_of_encodedAs Machine.configBuildsEngine.1 (Laws.EncodedOpcode.config w ri ro)
      (hbuild := by simp [-BitVec.getLsbD_eq_getElem, encode, BitVec.extractLsb'_or, getLsbD_inCmd])
  | info sel =>
    exact decode_encode_of_encodedAs Machine.infoReadsParameters.1 (Laws.EncodedOpcode.info sel)
  | tabrd idx =>
    exact decode_encode_of_encodedAs Machine.tabrdReadsTable.1 (Laws.EncodedOpcode.tabrd idx)
  | hnew h =>
    exact decode_encode_of_encodedAs Machine.hnewCreatesHasher.1 (Laws.EncodedOpcode.hnew h)
  | hrst h =>
    exact decode_encode_of_encodedAs Machine.hrstRestoresInitialValue.1 (Laws.EncodedOpcode.hrst h)
  | hupd h byte =>
    exact decode_encode_of_encodedAs Machine.hupdFoldsOneByte.1 (Laws.EncodedOpcode.hupd h byte)
  | hupdr h offset length =>
    exact decode_encode_of_encodedAs Machine.hupdrFoldsBufferRange.1 (Laws.EncodedOpcode.hupdr h offset length)
  | hget h =>
    exact decode_encode_of_encodedAs Machine.hgetFinalizes.1 (Laws.EncodedOpcode.hget h)
  | hfree h =>
    exact decode_encode_of_encodedAs Machine.hfreeEndsHasher.1 (Laws.EncodedOpcode.hfree h)
  | bufwr cnt offset data =>
    refine decode_encode_of_encodedAs Machine.bufwrWritesBytes.1 (Laws.EncodedOpcode.bufwr cnt offset data)
      ⟨by simp [encode, BitVec.extractLsb'_or], fun k hk hk4 => ?_⟩
    have hcnt : cnt.toNat < k := by simpa [encode, BitVec.extractLsb'_or] using hk
    rw [encode, BitVec.extractLsb'_or, extractLsb'_inArg_high hk4, extractLsb'_of_dataBytesAboveCountZero hwf hcnt,
      extractLsb'_inArg_disjoint offset (by omega) (by omega), BitVec.or_self]
  | revb nbits value =>
    exact decode_encode_of_encodedAs Machine.encodedAs_revb (Laws.EncodedOpcode.revb nbits value)

/-! ## Unassigned opcodes (R92) -/

/-- A beat whose opcode is no row's is rejected. -/
theorem decode_of_no_row {b : Beat} (h : ∀ row ∈ opcodeMap, row.opcode ≠ b.opcode) :
    decode b = .error .unassignedOpcode := by
  have hnone : opcodeMap.find? (fun row => row.opcode == b.opcode) = none := by
    simpa [List.find?_eq_none] using h
  rw [decode, hnone]

/-- The 15 opcodes of R90. -/
theorem opcode_of_mem_opcodeMap {row : OpRow} (h : row ∈ opcodeMap) :
    row.opcode.toNat ∈ [0x00, 0x01, 0x02, 0x03, 0x04, 0x05, 0x08, 0x10, 0x11, 0x12, 0x13, 0x14, 0x15, 0x20, 0x30] :=
  List.mem_map_of_mem (f := fun row : OpRow => row.opcode.toNat) h

/-- Settles O4: none of the 15 opcodes is in the ranges. -/
theorem unassignedOpcodeIsIllegal : Obligations.UnassignedOpcodeIsIllegal := by
  intro b o ho hrange
  have herror : decode b = .error .unassignedOpcode := by
    refine decode_of_no_row fun row hrow hop => ?_
    have hmem := opcode_of_mem_opcodeMap hrow
    rw [hop, Beat.opcode, ← ho] at hmem
    simp only [List.mem_cons, List.not_mem_nil, or_false] at hmem
    omega
  exact ⟨herror, Machine.runBeat_of_error herror⟩

end Sys2Proof

/-! # Proofs of the statements about whole commands: frames, noninterference, errors

`exec_eq` completes `exec_cases` with the datum: a command is its first status, its effect and its datum. What a command
leaves unchanged is read off its effect. What it does not read is shown by running it in two states that differ there:
the same status, related effects and the same datum give related next states (`exec_related`). -/

namespace Sys2Proof.Machine

/-! ## The datum of a command -/

/-- DATA of command `i` when it answers OK. `exec_eq` ties it to `exec`. -/
def datum (i : Instr) (s : State) : Long :=
  match i with
  | .info sel =>
    if sel = 0 then s.infoWord
    else if sel = 1 then zext64 s.eng.poly
    else if sel = 2 then zext64 s.eng.init
    else zext64 s.eng.xorout
  | .tabrd idx => zext64 (s.eng.tableAt idx)
  | .hget h => s.eng.finalize (s.curAt h)
  | .revb nbits value => BitVec.ofNat 64 (reverseBits value.toNat nbits.toNat)
  | .nop | .setpoly _ | .setinit _ | .setxor _ | .config _ _ _ | .hnew _ | .hrst _ | .hupd _ _ | .hupdr _ _ _ | .hfree _
  | .bufwr _ _ _ => 0

/-- A result that answers OK, if it does, with DATA `d`. -/
def Result.AnswersOkWith (d : Long) : Result → Prop
  | .raise st => st ≠ .ok
  | .respond _ v => v = d

/-- Every status check lets the rest through or raises an error. -/
theorem Result.AnswersOkWith.guard {c : Prop} [Decidable c] {r : Result} {st : Status} {d : Long}
    (hr : r.AnswersOkWith d) (hst : st ≠ .ok) : (if c then r else .raise st).AnswersOkWith d := by
  split_ifs
  · exact hr
  · exact hst

/-- A command that answers OK answers with its datum. -/
theorem exec_answersOkWith (i : Instr) (s : State) :
    ∃ r, exec i s = .next (s.finish r) ∧ r.AnswersOkWith (datum i s) := by
  cases i with
  | nop | setpoly | setinit | setxor | revb => exact ⟨_, rfl, rfl⟩
  | config | bufwr | tabrd => exact ⟨_, rfl, .guard rfl nofun⟩
  | info sel =>
    refine ⟨_, rfl, ?_⟩
    by_cases h0 : sel = 0
    · simp [h0, datum, Result.AnswersOkWith]
    · rw [if_neg h0]
      refine .guard ?_ nofun
      simp only [datum, if_neg h0]
      split_ifs <;> rfl
  | hnew | hrst | hupd | hget | hfree => exact ⟨_, rfl, .guard (.guard rfl nofun) nofun⟩
  | hupdr => exact ⟨_, rfl, .guard (.guard (.guard rfl nofun) nofun) nofun⟩

/-- A command's whole meaning: its effect with its datum, or the first status that applies, raised. -/
theorem exec_eq (i : Instr) (s : State) :
    exec i s = .next (if firstStatus s i = .ok then (effect i s).present { status := .ok, data := datum i s }
      else s.present { status := firstStatus s i, data := 0 }) := by
  obtain ⟨hne, he⟩ | ⟨hok, d, he⟩ := exec_cases i s
  · rw [he, if_neg hne]
  · obtain ⟨r, hr, hd⟩ := exec_answersOkWith i s
    rw [if_pos hok]
    have hpend : (s.finish r).port.pend = some { status := .ok, data := d } :=
      congrArg (·.port.pend) (Host.Outcome.next.inj (hr.symm.trans he))
    cases r with
    | raise st => cases hpend; exact absurd rfl hd
    | respond t v => cases hpend; rw [he, ← hd]

/-- What running a command leaves, from what it leaves when it raises and when it answers OK. -/
theorem exec_next {i : Instr} {s t : State} (ht : exec i s = .next t) :
    (∃ st, st ≠ .ok ∧ t = s.present { status := st, data := 0 }) ∨
    (firstStatus s i = .ok ∧ t = (effect i s).present { status := .ok, data := datum i s }) := by
  rw [exec_eq] at ht
  cases ht
  split_ifs with h
  · exact .inr ⟨h, rfl⟩
  · exact .inl ⟨_, h, rfl⟩

/-- An accepted beat raises an error and changes nothing, or decodes to a command that answers OK with its effect. -/
theorem runBeat_next {b : Beat} {s t : State} (ht : runBeat b s = .next t) :
    (∃ st, st ≠ .ok ∧ t = s.present { status := st, data := 0 }) ∨
    (∃ i, decode b = .ok i ∧ firstStatus s i = .ok ∧
      t = (effect i s).present { status := .ok, data := datum i s }) := by
  cases hd : decode b with
  | error e =>
    rw [runBeat_of_error hd] at ht
    cases ht
    exact .inl ⟨.illegalCommand, nofun, rfl⟩
  | ok i =>
    rw [runBeat_of_decode hd] at ht
    obtain h | ⟨hok, h⟩ := exec_next ht
    · exact .inl h
    · exact .inr ⟨i, rfl, hok, h⟩

/-! ## Errors (R202, R203) -/

/-- Settles O6: a beat that does not answer OK raised an error. -/
theorem errorLeavesStateUnchanged : Obligations.ErrorLeavesStateUnchanged := by
  intro b s t r ht hpend hr
  obtain ⟨st, -, rfl⟩ | ⟨i, -, -, rfl⟩ := runBeat_next ht <;> cases hpend
  · exact ⟨rfl, rfl, fun p => by simp [State.cmdReady, Port.idle]⟩
  · exact absurd rfl hr

/-! ## Frames -/

/-- A command's effect leaves the parameters, BUF's draw, the port and the host. -/
theorem effect_frame (i : Instr) (s : State) :
    (effect i s).params = s.params ∧ (effect i s).bufDraw = s.bufDraw ∧ (effect i s).host = s.host ∧
    (effect i s).port = s.port := by
  cases i with
  | bufwr => rw [effect, State.writeBytes_eq]; exact ⟨rfl, rfl, rfl, rfl⟩
  | nop | setpoly | setinit | setxor | config | info | tabrd | hnew | hrst | hupd | hupdr | hget | hfree | revb =>
    exact ⟨rfl, rfl, rfl, rfl⟩

theorem effect_params (i : Instr) (s : State) : (effect i s).params = s.params := by
  obtain ⟨hparams, -⟩ := effect_frame i s
  exact hparams

/-- Only CONFIG's effect writes the engine (10_state.md section 2). -/
theorem effect_eng {i : Instr} (hi : ∀ w ri ro, i ≠ .config w ri ro) (s : State) : (effect i s).eng = s.eng := by
  cases i with
  | config w ri ro => exact absurd rfl (hi w ri ro)
  | bufwr => exact s.writeBytes_eng ..
  | nop | setpoly | setinit | setxor | info | tabrd | hnew | hrst | hupd | hupdr | hget | hfree | revb => rfl

/-- Settles O39: an error writes nothing, a successful command other than CONFIG no engine register. -/
theorem engineWrittenOnlyByConfig : Obligations.EngineWrittenOnlyByConfig := by
  intro b s t ht
  obtain ⟨st, -, rfl⟩ | ⟨i, hi, -, rfl⟩ := runBeat_next ht
  · exact .inl rfl
  · by_cases hc : ∃ w ri ro, i = .config w ri ro
    · obtain ⟨w, ri, ro, rfl⟩ := hc
      exact .inr ⟨⟨w, ri, ro, hi⟩, rfl⟩
    · push Not at hc
      exact .inl (effect_eng hc s)

/-- Settles O41: CONFIG's effect writes the engine and the valid bits only, and it answers OK. -/
theorem configFrame : Obligations.ConfigFrame := by
  intro w ri ro s t ht
  obtain ⟨st, -, rfl⟩ | ⟨-, rfl⟩ := exec_next ht
  · exact ⟨rfl, fun _ => rfl, fun _ => ⟨rfl, rfl⟩, ⟨rfl, rfl, rfl, rfl⟩, fun _ => ⟨rfl, fun _ => rfl⟩⟩
  · exact ⟨rfl, fun _ => rfl, fun _ => ⟨rfl, rfl⟩, ⟨rfl, rfl, rfl, rfl⟩, absurd rfl⟩

/-- Settles O43: BUFWR's loop writes only its bytes. -/
theorem bufwrFrame : Obligations.BufwrFrame := by
  intro cnt offset data s t ht
  obtain ⟨st, -, rfl⟩ | ⟨-, rfl⟩ := exec_next ht
  · exact ⟨rfl, rfl, fun _ => ⟨rfl, rfl⟩, ⟨rfl, rfl, rfl, rfl⟩, fun _ _ => ⟨rfl, rfl⟩⟩
  · obtain ⟨heng, hstg, hslots, hrest⟩ := s.writeBytes_frame offset.toNat data (byteCount cnt)
    refine ⟨heng, hstg, hslots, hrest, fun a ha => ?_⟩
    have hout : ¬ (offset.toNat ≤ a ∧ a < offset.toNat + byteCount cnt) := by omega
    rw [effect, State.memRead_present, State.bufWritten_present, State.memRead_writeBytes, State.bufWritten_writeBytes,
      if_neg hout, decide_eq_false hout, Bool.false_or]
    exact ⟨rfl, rfl⟩

/-- A slot command leaves everything outside its slot, whatever it answers. -/
theorem onlySlot_of_exec {i : Instr} {h : BitVec 8} {s t : State} (hi : slotOf i = some h) (ht : exec i s = .next t) :
    s.OnlySlot t h := by
  obtain ⟨st, -, rfl⟩ | ⟨-, rfl⟩ := exec_next ht
  · exact ⟨fun _ _ => ⟨rfl, rfl⟩, rfl, rfl, fun _ => ⟨rfl, rfl⟩, rfl, rfl, rfl, rfl⟩
  · exact onlySlot_effect hi s _

/-- What a command's effect leaves, the command leaves whatever it answers. -/
theorem exec_keeps {α : Type} {f : State → α} (hf : ∀ s r, f (s.present r) = f s) {i : Instr} {s t : State}
    (hi : f (effect i s) = f s) (ht : exec i s = .next t) : f t = f s := by
  obtain ⟨st, -, rfl⟩ | ⟨-, rfl⟩ := exec_next ht
  · exact hf _ _
  · exact (hf _ _).trans hi

/-- Settles O42: the effects of the six commands. -/
theorem slotCommandsFrame : Obligations.SlotCommandsFrame := by
  intro h byte offset length s t
  simp only [List.forall_mem_cons, List.not_mem_nil, false_implies, implies_true, and_true]
  refine ⟨⟨?_, ?_, ?_, ?_, ?_, ?_⟩, ⟨?_, ?_, ?_, ?_⟩, ?_, ?_⟩
  iterate 6 exact onlySlot_of_exec rfl
  iterate 4 exact exec_keeps (f := (·.hvAt h)) (fun _ _ => rfl) rfl
  iterate 2 exact exec_keeps (f := (·.curAt h)) (fun _ _ => rfl) rfl

/-! ## Two states -/

/-- The status depends on the parameters, ENG_VALID, the staging registers and the valid bit of the slot the command
names (R204, R205, R210, R211). -/
theorem firstStatus_congr {i : Instr} {s s' : State} (hparams : s'.params = s.params)
    (hvalid : s'.eng.valid = s.eng.valid) (hstg : s'.stg = s.stg)
    (hslot : ∀ h, slotOf i = some h → s'.hvAt h = s.hvAt h) : firstStatus s' i = firstStatus s i := by
  have hbad : badSlot s' i = badSlot s i := by
    cases i with
    | hnew | hrst | hupd | hupdr | hget | hfree => simp only [badSlot, hparams, hslot _ rfl]
    | nop | setpoly | setinit | setxor | config | info | tabrd | bufwr | revb => rfl
  have hparam : badParameter s' i = badParameter s i := by cases i <;> simp only [badParameter, hstg]
  have hrange : badRange s' i = badRange s i := by cases i <;> simp only [badRange, hparams]
  rw [firstStatus, firstStatus, hvalid, hbad, hparam, hrange]

/-- A command run in two related states answers alike in related next states, when its status is the same in both and, if it
is OK, its effects are related and its data equal. -/
theorem exec_related {R : State → State → Prop} (hpresent : ∀ t t' r, R t t' → R (t.present r) (t'.present r))
    {i : Instr} {s s' : State} (hs : R s s') (hstatus : firstStatus s' i = firstStatus s i)
    (hok : firstStatus s i = .ok → R (effect i s) (effect i s') ∧ datum i s' = datum i s) :
    ∃ t t', exec i s = .next t ∧ exec i s' = .next t' ∧ R t t' := by
  refine ⟨_, _, exec_eq i s, exec_eq i s', ?_⟩
  rw [hstatus]
  split_ifs with h
  · obtain ⟨heffect, hdatum⟩ := hok h
    rw [hdatum]
    exact hpresent _ _ _ heffect
  · exact hpresent _ _ _ hs

/-! ### A slot command reads only its slot (10_state.md section 1) -/

/-- The port, and slot `h`, are the same. -/
def SamePortAndSlot (h : BitVec 8) (t t' : State) : Prop :=
  t'.port = t.port ∧ t'.curAt h = t.curAt h ∧ t'.hvAt h = t.hvAt h

/-- Settles O38: the six effects read of the slots only CUR[h]. -/
theorem slotCommandReadsOnlyItsSlot : Obligations.SlotCommandReadsOnlyItsSlot := by
  intro i h s s' hi hs' hcur hhv
  have hparams : s'.params = s.params := by rw [hs']
  have heng : s'.eng = s.eng := by rw [hs']
  have hstg : s'.stg = s.stg := by rw [hs']
  have hport : s'.port = s.port := by rw [hs']
  have hread : s'.memRead = s.memRead := by rw [hs']; rfl
  have hstatus : firstStatus s' i = firstStatus s i := by
    refine firstStatus_congr hparams (by rw [heng]) hstg fun k hk => ?_
    obtain rfl : h = k := Option.some.inj (hi.symm.trans hk)
    exact hhv
  refine exec_related (R := SamePortAndSlot h) (fun t t' r hR => ?_) ⟨hport, hcur, hhv⟩ hstatus fun _ => ?_
  · obtain ⟨hp, hc, hv⟩ := hR
    exact ⟨by simp [hp], hc, hv⟩
  · cases i with
    | hnew | hrst | hupd | hupdr | hget | hfree =>
      cases hi
      simp [SamePortAndSlot, effect, datum, hport, hcur, hhv, heng, hread, State.crcChain_eq_foldl]
    | nop | setpoly | setinit | setxor | config | info | tabrd | bufwr | revb => cases hi

/-! ### HGET reads the engine and its slot (R155, R156) -/

/-- HGET's response. -/
def hgetResponse (h : BitVec 8) (s : State) : Response :=
  if firstStatus s (.hget h) = .ok then { status := .ok, data := s.eng.finalize (s.curAt h) }
  else { status := firstStatus s (.hget h), data := 0 }

theorem exec_hget_eq (h : BitVec 8) (s : State) : exec (.hget h) s = .next (s.present (hgetResponse h s)) := by
  rw [exec_eq, hgetResponse]
  split_ifs <;> rfl

/-- HGET answers alike in states with the same parameters, engine and slot. -/
theorem hgetResponse_congr {h : BitVec 8} {s t : State} (hparams : t.params = s.params) (heng : t.eng = s.eng)
    (hcur : t.curAt h = s.curAt h) (hhv : t.hvAt h = s.hvAt h) : hgetResponse h t = hgetResponse h s := by
  have hslot : badSlot t (.hget h) = badSlot s (.hget h) := by simp only [badSlot, hparams, hhv]
  have hstatus : firstStatus t (.hget h) = firstStatus s (.hget h) := by
    rw [firstStatus, firstStatus, hslot, heng]
    rfl
  rw [hgetResponse, hgetResponse, hstatus, heng, hcur]

/-- The finalized checksum is masked to W bits. -/
theorem Engine.finalize_lt (e : Engine) (c : Word) : (e.finalize c).toNat < 2 ^ e.width.toNat := by
  rw [Engine.finalize, BitVec.toNat_ofNat]
  exact lt_of_le_of_lt (Nat.mod_le _ _) (and_mask_lt _ _)

theorem hgetResponse_data_lt (h : BitVec 8) (s : State) : (hgetResponse h s).data.toNat < 2 ^ s.eng.width.toNat := by
  rw [hgetResponse]
  split_ifs
  · exact s.eng.finalize_lt _
  · exact Nat.two_pow_pos _

/-- A command that is neither CONFIG nor a writer of slot `h` has no effect on it. -/
theorem effect_slot_of_not_writer {i : Instr} {h : BitVec 8} (hi : readsOnly i = true ∨ slotOf i ≠ some h)
    (hc : ∀ w ri ro, i ≠ .config w ri ro) (s : State) :
    (effect i s).curAt h = s.curAt h ∧ (effect i s).hvAt h = s.hvAt h := by
  obtain hread | hslot := hi
  · rw [effect_of_readsOnly hread]
    exact ⟨rfl, rfl⟩
  · cases hk : slotOf i with
    | none => exact effect_sameSlots hk hc h
    | some k => exact effect_other_slot hk fun hkh => hslot (hkh ▸ hk)

/-- Settles O28: such a command leaves all that HGET reads. -/
theorem hgetIsStable : Obligations.HgetIsStable := by
  refine fun h s => ⟨_, exec_hget_eq h s, hgetResponse_data_lt h s, fun i t hi hc ht => ?_⟩
  obtain ⟨hcur, hhv⟩ := effect_slot_of_not_writer hi hc s
  have hresp : hgetResponse h t = hgetResponse h s :=
    hgetResponse_congr (exec_keeps (f := (·.params)) (fun _ _ => rfl) (effect_params i s) ht)
      (exec_keeps (f := (·.eng)) (fun _ _ => rfl) (effect_eng hc s) ht)
      (exec_keeps (f := (·.curAt h)) (fun _ _ => rfl) hcur ht) (exec_keeps (f := (·.hvAt h)) (fun _ _ => rfl) hhv ht)
  rw [exec_hget_eq, hresp]

/-! ### HGET's datum gives the accumulator back (60_exceptions.md section 5) -/

/-- R44(a): an engine's width is at least 8 and at most 32. -/
theorem Engine.width_bounds {e : Engine} (hv : e.valid = true) (he : e.widthInv) :
    8 ≤ e.width.toNat ∧ e.width.toNat ≤ 32 := by
  obtain ⟨hsupported, -⟩ := he
  obtain h | h | h := (widthSupported_iff _).mp (hsupported.mp hv) <;> simp [h]

/-- At a W-bit accumulator and final XOR the checksum loses no bit to the mask or the 64-bit datum. -/
theorem Engine.finalize_toNat {e : Engine} (hw : e.width.toNat ≤ 32) (hx : e.fits e.xorout) {c : Word} (hc : e.fits c) :
    (e.finalize c).toNat =
      (if e.refout then reverseBits c.toNat e.width.toNat else c.toNat) ^^^ e.xorout.toNat := by
  have hvalue : (if e.refout then reverseBits c.toNat e.width.toNat else c.toNat) < 2 ^ e.width.toNat := by
    split_ifs
    · exact reverseBits_lt_two_pow _ _
    · exact hc
  have hlt := Nat.xor_lt_two_pow hvalue hx
  have h64 : 2 ^ e.width.toNat ≤ 2 ^ 64 := Nat.pow_le_pow_right (by decide) (by omega)
  rw [Engine.finalize, BitVec.toNat_ofNat, and_mask, Nat.mod_eq_of_lt hlt, Nat.mod_eq_of_lt (hlt.trans_le h64)]

/-- Settles O29: XOR and Reverse undo themselves. -/
theorem hgetRecoversAccumulator : Obligations.HgetRecoversAccumulator := by
  intro h s hinv hs hh
  obtain ⟨hwidth, ⟨-, -, hxor, -⟩, hslot⟩ := hinv
  obtain ⟨hv, hfits⟩ := hslot h hh
  obtain ⟨-, hw⟩ := Engine.width_bounds hv hwidth
  refine ⟨_, exec_hget hv ((s.live_iff h).mpr ⟨hs, hh⟩), ?_⟩
  rw [Engine.finalize_toNat hw hxor hfits, Nat.xor_xor_cancel_right]
  split_ifs
  · exact (reverseBits_reverseBits hfits).symm
  · rfl

end Sys2Proof.Machine

/-! # Proofs of the CRC algorithms' statements (spec/40_engine.md section 3, 41_hasher.md section 2)

GenEntry's loop is linear in the register. So its eight steps on accumulator and byte are the steps on the top byte, which
are the table entry, and the steps on the bits below it, which only shift. -/

namespace Sys2Proof.Machine

/-! ## GenEntry (R120) -/

/-- With the polynomial 0 the loop only shifts. -/
theorem genSteps_poly_zero (w n reg : Nat) : genSteps w 0 n reg = reg <<< n := by
  induction n generalizing reg with
  | zero => rfl
  | succ n ih =>
    have hstep : genStep w 0 reg = reg <<< 1 := by simp [genStep]
    rw [genSteps, hstep, ih, ← Nat.shiftLeft_add, Nat.add_comm]

/-- Eight shifts move the byte, placed at the top of the W bits, out of them. -/
theorem genEntry_poly_zero {w d : Nat} (hw : 8 ≤ w) : genEntry w 0 d = 0 := by
  rw [genEntry, genSteps_poly_zero, ← Nat.zero_and (mask w), and_mask_eq_iff]
  intro i hi
  by_cases h8 : 8 ≤ i
  · have hlow : ¬ w - 8 ≤ i - 8 := by omega
    simp [hlow]
  · simp [h8]

/-- Settles O13: the bound is the last mask's, the values are the loop's at the three operands. -/
theorem genEntryShape : Obligations.GenEntryShape := by
  intro w p d hw _
  have h8 : 8 ≤ w := by omega
  exact ⟨genEntry_lt w p d, genEntry_zero w p, genEntry_poly_zero h8, genEntry_one h8 p⟩

/-! ## CrcStep is polynomial division (R142) -/

/-- A step is linear in the register: each of its bits is an XOR of register bits. -/
theorem genStep_xor (w p x y : Nat) : genStep w p (x ^^^ y) = genStep w p x ^^^ genStep w p y := by
  refine Nat.eq_of_testBit_eq fun i => ?_
  simp only [testBit_genStep, Nat.testBit_xor, Bool.and_xor_distrib_left, Bool.and_xor_distrib_right, Bool.xor_assoc,
    Bool.xor_left_comm (_ && p.testBit i)]

theorem genSteps_xor (w p n x y : Nat) : genSteps w p n (x ^^^ y) = genSteps w p n x ^^^ genSteps w p n y := by
  induction n generalizing x y with
  | zero => rfl
  | succ n ih => rw [genSteps, genStep_xor, ih, genSteps, genSteps]

/-- While no bit reaches the top, the loop only shifts. -/
theorem genSteps_of_lt {w k n reg : Nat} (hk : k + n ≤ w) (p : Nat) (hreg : reg < 2 ^ k) :
    genSteps w p n reg = reg <<< n := by
  induction n generalizing k reg with
  | zero => rfl
  | succ n ih =>
    have htop : reg.testBit (w - 1) = false :=
      Nat.testBit_lt_two_pow (hreg.trans_le (Nat.pow_le_pow_right (by decide) (by omega)))
    have hstep : genStep w p reg = reg <<< 1 := by simp [genStep, msb, Nat.and_two_pow, htop]
    have hnext : reg <<< 1 < 2 ^ (k + 1) := by rw [Nat.shiftLeft_eq]; omega
    rw [genSteps, hstep, ih (by omega) hnext, ← Nat.shiftLeft_add, Nat.add_comm]

/-- A register is its bits below the top byte and its top byte at its place. -/
theorem mod_xor_shiftRight_shiftLeft (x k : Nat) : (x % 2 ^ k) ^^^ (x >>> k <<< k) = x := by
  refine Nat.eq_of_testBit_eq fun i => ?_
  by_cases hi : i < k
  · have hnot : ¬ k ≤ i := by omega
    simp [hi, hnot]
  · have hge : k ≤ i := by omega
    simp [hi, hge]

/-- Eight steps shift the bits below the top byte and reduce the top byte as GenEntry does. -/
theorem genSteps_eight_and_mask {w : Nat} (hw : 8 ≤ w) (p x : Nat) :
    genSteps w p 8 x &&& mask w = ((x <<< 8) &&& mask w) ^^^ genEntry w p (x >>> (w - 8)) := by
  have hlow : genSteps w p 8 (x % 2 ^ (w - 8)) = (x % 2 ^ (w - 8)) <<< 8 :=
    genSteps_of_lt (k := w - 8) (by omega) p (Nat.mod_lt _ (Nat.two_pow_pos _))
  have hshift : ((x % 2 ^ (w - 8)) <<< 8) &&& mask w = (x <<< 8) &&& mask w := by
    rw [and_mask_eq_iff]
    intro i hi
    have hin : i - 8 < w - 8 ∨ ¬ 8 ≤ i := by omega
    obtain hin | hin := hin <;> simp [hin]
  have htop : genSteps w p 8 (x >>> (w - 8) <<< (w - 8)) &&& mask w = genEntry w p (x >>> (w - 8)) :=
    genSteps_congr (by omega) rfl 8 (and_mask_and_mask _ w).symm
  calc genSteps w p 8 x &&& mask w
      = genSteps w p 8 ((x % 2 ^ (w - 8)) ^^^ (x >>> (w - 8) <<< (w - 8))) &&& mask w := by
        rw [mod_xor_shiftRight_shiftLeft]
    _ = ((x <<< 8) &&& mask w) ^^^ genEntry w p (x >>> (w - 8)) := by
        rw [genSteps_xor, Nat.and_xor_distrib_right, hlow, hshift, htop]

section FoldedByte
variable {w c val : Nat} (hw : 8 ≤ w) (hc : c < 2 ^ w) (hval : val < 2 ^ 8)
include hw hc hval

/-- The accumulator with a byte folded into its top has W bits. -/
theorem xor_shiftLeft_lt : c ^^^ (val <<< (w - 8)) < 2 ^ w := by
  refine Nat.xor_lt_two_pow hc ?_
  rw [Nat.shiftLeft_eq, ← Nat.add_sub_cancel' hw, Nat.pow_add, Nat.add_sub_cancel_left]
  exact Nat.mul_lt_mul_of_pos_right hval (Nat.two_pow_pos _)

/-- CrcStep's table index is its top byte. -/
theorem toNat_crcIndex :
    (BitVec.ofNat 8 ((c >>> (w - 8)) ^^^ val)).toNat = (c ^^^ (val <<< (w - 8))) >>> (w - 8) := by
  have hbyte : (c ^^^ (val <<< (w - 8))) >>> (w - 8) < 2 ^ 8 := by
    rw [Nat.shiftRight_eq_div_pow, Nat.div_lt_iff_lt_mul (Nat.two_pow_pos _), ← Nat.pow_add, Nat.add_sub_cancel' hw]
    exact xor_shiftLeft_lt hw hc hval
  have hsplit : (c ^^^ (val <<< (w - 8))) >>> (w - 8) = (c >>> (w - 8)) ^^^ val := by
    rw [Nat.shiftRight_xor_distrib, Nat.shiftLeft_shiftRight]
  rw [BitVec.toNat_ofNat, ← hsplit, Nat.mod_eq_of_lt hbyte]

end FoldedByte

/-- Settles O24: CrcStep's closed form, its table entry GenEntry's, is the eight steps of the folded register. -/
theorem crcStepIsEightDivisionSteps : Obligations.CrcStepIsEightDivisionSteps := by
  intro e c b val hv hwidth hvalue hc hval
  obtain ⟨hw, hw'⟩ := Engine.width_bounds hv hwidth
  obtain ⟨-, -, -, htable⟩ := hvalue
  have hval8 : val < 2 ^ 8 := by
    rw [hval]
    split_ifs
    · exact reverseBits_lt_two_pow _ _
    · exact b.isLt
  have hshifted := crcShifted_eq hw c.toNat val
  rw [and_mask (_ ^^^ _), Nat.mod_eq_of_lt (xor_shiftLeft_lt hw hc hval8)] at hshifted
  rw [Engine.crcStep_toNat hw hw' (fun d => (htable hv d).1) c b hval, (htable hv _).2, toNat_crcIndex hw hc hval8,
    ← hshifted]
  exact (genSteps_eight_and_mask hw _ _).symm

end Sys2Proof.Machine

/-! # Proofs of the port's statements (spec/30_encoding.md section 1)

Each kind of edge of `clockEdge_cases` has its lemma; every beat answers (`runBeat_answers`). A transaction is two edges,
an offer and a take, because no command reads or writes the host's side (`exec_withHost`). -/

namespace Sys2Proof.Machine

/-! ## What a rising edge does (R81) -/

section Edge
variable {p : Pins} {s : State} (hrst : p.rstN = true)
include hrst

theorem clockEdge_accepts (hbusy : s.port.busy = false) (hvalid : p.cmdValid = true) :
    clockEdge p s = runBeat p.beat s.accept := by
  simp [clockEdge, State.cmdReady, hrst, hbusy, hvalid]

theorem clockEdge_offers_nothing (hbusy : s.port.busy = false) (hvalid : p.cmdValid = false) :
    clockEdge p s = .next s := by
  simp [clockEdge, State.cmdReady, hrst, hbusy, hvalid]

theorem clockEdge_delivers {r : Response} (hbusy : s.port.busy = true) (hpend : s.port.pend = some r)
    (hready : p.rspReady = true) : clockEdge p s = .next (s.deliver r) := by
  simp [clockEdge, State.cmdReady, hrst, hbusy, hpend, hready]

theorem clockEdge_holds (hbusy : s.port.busy = true) (hwait : s.port.pend = none ∨ p.rspReady = false) :
    clockEdge p s = .next s := by
  cases hpend : s.port.pend with
  | none => simp [clockEdge, State.cmdReady, hrst, hbusy, hpend]
  | some r => simp [clockEdge, State.cmdReady, hrst, hbusy, hpend, show p.rspReady = false by simpa [hpend] using hwait]

end Edge

/-! ## The port (R81, R84) -/

/-- Settles O45: the edge accepts the beat, which decodes. -/
theorem stepRunsDecodedInstruction : Obligations.StepRunsDecodedInstruction := by
  intro s p rest i hedges hrst hvalid hbusy hdecode
  rw [step_cons hedges, clockEdge_accepts (s := s.setEdges rest) hrst hbusy hvalid]
  exact runBeat_of_decode hdecode _

/-- Every beat, decoded or not, answers a next state with its response pending; BUSY and the host are unchanged. -/
theorem runBeat_answers (b : Beat) (s : State) :
    ∃ t r, runBeat b s = .next t ∧ t.port = { s.port with pend := some r } ∧ t.host = s.host := by
  cases hd : decode b with
  | error e => exact ⟨_, _, runBeat_of_error hd s, rfl, rfl⟩
  | ok i =>
    obtain ⟨-, -, hhost, hport⟩ := effect_frame i s
    rw [runBeat_of_decode hd]
    obtain ⟨-, he⟩ | ⟨-, d, he⟩ := exec_cases i s
    · exact ⟨_, _, he, rfl, rfl⟩
    · exact ⟨_, _, he, by rw [State.present_port, hport], hhost⟩

/-- Settles O48: the kinds of edge with rst_n = 1. -/
theorem portHandshake : Obligations.PortHandshake := by
  intro s p rest hedges hrst
  rw [step_cons hedges]
  refine ⟨fun hready => ?_, fun hbusy hvalid => ?_, fun hbusy hvalid => ?_, fun r hport => ⟨?_, fun hready => ?_,
    fun hready => ?_⟩⟩
  · simpa [State.cmdReady, hrst] using hready
  · obtain ⟨t, r, ht, hport, hhost⟩ := runBeat_answers p.beat (s.setEdges rest).accept
    exact ⟨t, r, (clockEdge_accepts (s := s.setEdges rest) hrst hbusy hvalid).trans ht, hport, hhost⟩
  · exact clockEdge_offers_nothing hrst hbusy hvalid
  · simp [State.rspPort, hrst, hport]
  · exact clockEdge_holds hrst (by simp [hport]) (.inr hready)
  · exact clockEdge_delivers hrst (by simp [hport]) (by simp [hport]) hready

/-- An edge that accepts nothing does not look at the payload. -/
theorem clockEdge_eq_of_not_accepting {p q : Pins} {s : State}
    (h : ¬ (p.rstN = true ∧ p.cmdValid = true ∧ s.cmdReady p = true)) (hrst : q.rstN = p.rstN)
    (hvalid : q.cmdValid = p.cmdValid) (hready : q.rspReady = p.rspReady) : clockEdge q s = clockEdge p s := by
  obtain ⟨hr, he⟩ | ⟨hr, hb, hv, -⟩ | ⟨hr, hb, hv, he⟩ | ⟨r, hr, hb, hp, hy, he⟩ | ⟨r, hr, hb, -, hy, he⟩ |
    ⟨hr, hb, hp, he⟩ := clockEdge_cases p s
  case inr.inl => exact absurd ⟨hr, hv, by simp [State.cmdReady, hr, hb]⟩ h
  all_goals rw [he]
  · exact clockEdge_of_rstN_false (hrst.trans hr) s
  · exact clockEdge_offers_nothing (hrst.trans hr) hb (hvalid.trans hv)
  · exact clockEdge_delivers (hrst.trans hr) hb hp (hready.trans hy)
  · exact clockEdge_holds (hrst.trans hr) hb (.inr (hready.trans hy))
  · exact clockEdge_holds (hrst.trans hr) hb (.inl hp)

/-- Settles O49: the payload is read only by the beat that is accepted. -/
theorem payloadSampledOnlyAtAcceptance : Obligations.PayloadSampledOnlyAtAcceptance := by
  intro s p rest word arg hedges
  refine ⟨fun h => ?_, fun h => by simpa [State.rspValid] using h⟩
  rw [step_cons hedges, step_cons rfl]
  exact clockEdge_eq_of_not_accepting (s := s.setEdges rest) h rfl rfl rfl

/-- Every edge answers. -/
theorem clockEdge_answers (p : Pins) (s : State) : ∃ t, clockEdge p s = .next t := by
  obtain ⟨-, he⟩ | ⟨-, -, -, he⟩ | ⟨-, -, -, he⟩ | ⟨r, -, -, -, -, he⟩ | ⟨r, -, -, -, -, he⟩ | ⟨-, -, -, he⟩ :=
    clockEdge_cases p s <;> rw [he]
  case inr.inl =>
    obtain ⟨t, -, ht, -⟩ := runBeat_answers p.beat s.accept
    exact ⟨t, ht⟩
  all_goals exact ⟨_, rfl⟩

/-- Settles O51: without a coming edge the block waits, and every edge answers. -/
theorem stepAlwaysAnswersNext : Obligations.StepAlwaysAnswersNext := by
  intro s
  cases hedges : s.host.edges with
  | nil => exact ⟨s, step_nil hedges⟩
  | cons p rest =>
    rw [step_cons hedges]
    exact clockEdge_answers p _

/-! ## Clocked runs are transactions (R82) -/

/-- The state with another host. -/
def State.withHost (s : State) (host : HostSide) : State := { s with host := host }

theorem State.writeBytes_withHost (s : State) (host : HostSide) (off : Nat) (data : Word) (n : Nat) :
    (s.withHost host).writeBytes off data n = (s.writeBytes off data n).withHost host := by
  induction n with
  | zero => rfl
  | succ n ih => rw [State.writeBytes, ih]; rfl

theorem State.crcChain_withHost (s : State) (host : HostSide) (c : Word) (off n : Nat) :
    (s.withHost host).crcChain c off n = s.crcChain c off n := by
  rw [State.crcChain_eq_foldl, State.crcChain_eq_foldl]
  rfl

theorem effect_withHost (i : Instr) (s : State) (host : HostSide) :
    effect i (s.withHost host) = (effect i s).withHost host := by
  cases i with
  | bufwr => exact s.writeBytes_withHost ..
  | hupdr h off len =>
    simp only [effect, State.crcChain_withHost]
    rfl
  | nop | setpoly | setinit | setxor | config | info | tabrd | hnew | hrst | hupd | hget | hfree | revb => rfl

theorem datum_withHost (i : Instr) (s : State) (host : HostSide) : datum i (s.withHost host) = datum i s := by
  cases i <;> rfl

/-- No command reads or writes the host's side. -/
theorem exec_withHost {i : Instr} {s t : State} (ht : exec i s = .next t) (host : HostSide) :
    exec i (s.withHost host) = .next (t.withHost host) := by
  have hstatus : firstStatus (s.withHost host) i = firstStatus s i := firstStatus_congr rfl rfl rfl fun _ _ => rfl
  obtain ⟨u, u', hu, hu', rfl⟩ := exec_related (R := fun t t' => t' = t.withHost host)
    (fun _ _ r h => congrArg (·.present r) h) rfl hstatus fun _ => ⟨effect_withHost i s host, datum_withHost i s host⟩
  cases hu.symm.trans ht
  exact hu'

theorem runBeat_withHost {b : Beat} {s t : State} (ht : runBeat b s = .next t) (host : HostSide) :
    runBeat b (s.withHost host) = .next (t.withHost host) := by
  cases hd : decode b with
  | error e =>
    rw [runBeat_of_error hd] at ht ⊢
    cases ht
    rfl
  | ok i =>
    rw [runBeat_of_decode hd] at ht ⊢
    exact exec_withHost ht host

/-- The two edges of a transaction: the offered beat is accepted and executed, and its response is taken. -/
theorem transact_clocked {b : Beat} {s : State} (hs : s.port = Port.idle) :
    ∃ t r, transact b s = some (t, r) ∧ t.port = Port.idle ∧ ∀ edges delivered, ∃ u,
      step (s.withHost { edges := Pins.offer b :: Pins.take :: edges, delivered := delivered }) = .next u ∧
      step u = .next (t.withHost { edges := edges, delivered := delivered ++ [r] }) := by
  obtain ⟨t, r, ht, hport, -⟩ := runBeat_answers b s.accept
  have hpend : t.port.pend = some r := by rw [hport]
  have hbusy : t.port.busy = true := by rw [hport]; rfl
  refine ⟨{ t with port := Port.idle }, r, by simp only [transact, ht, hpend], rfl, fun edges delivered => ?_⟩
  refine ⟨t.withHost { edges := Pins.take :: edges, delivered := delivered }, ?_, ?_⟩
  · rw [step_cons rfl, clockEdge_accepts rfl (by exact congrArg Port.busy hs) rfl]
    exact runBeat_withHost ht { edges := Pins.take :: edges, delivered := delivered }
  · rw [step_cons rfl]
    exact clockEdge_delivers (p := Pins.take) rfl hbusy hpend rfl

/-- A run starts with a step. -/
theorem run_succ {M : Host.Core} {k : Nat} {s t : M.State} (h : M.step s = .next t) : M.run (k + 1) s = M.run k t := by
  rw [Host.Core.run, h]

/-- A run of the machine that starts with two steps. -/
theorem core_run_two {k : Nat} {s u t : State} (hu : step s = .next u) (ht : step u = .next t) :
    Host.Core.run Sys2Proof.core (k + 2) s = Host.Core.run Sys2Proof.core k t :=
  (run_succ (M := Sys2Proof.core) (s := s) (t := u) hu).trans (run_succ (M := Sys2Proof.core) (s := u) (t := t) ht)

/-- A host that offers each beat and takes its response sees the responses of the run and leaves its state. -/
theorem runBeats_clocked (bs : List Beat) {s : State} (hs : s.port = Port.idle) :
    ∃ t rs, runBeats bs s = some (t, rs) ∧ rs.length = bs.length ∧ ∀ rest delivered,
      Host.Core.run Sys2Proof.core (2 * bs.length)
        (s.withHost { edges := hostScript bs ++ rest, delivered := delivered }) =
          .next (t.withHost { edges := rest, delivered := delivered ++ rs }) := by
  induction bs generalizing s with
  | nil => exact ⟨s, [], rfl, rfl, fun rest delivered => by simp [hostScript, Host.Core.run]⟩
  | cons b bs ih =>
    obtain ⟨t, r, htransact, hidle, hedges⟩ := transact_clocked (b := b) hs
    obtain ⟨u, rs, hruns, hlength, hrun⟩ := ih hidle
    refine ⟨u, r :: rs, by simp only [runBeats, htransact, hruns], by simp [hlength], fun rest delivered => ?_⟩
    obtain ⟨v, haccept, htake⟩ := hedges (hostScript bs ++ rest) delivered
    have hrest := hrun rest (delivered ++ [r])
    rw [List.append_assoc] at hrest
    exact (core_run_two haccept htake).trans hrest

/-- Settles O50: `runBeats_clocked` at the host the state has. -/
theorem clockedRunIsTransactions : Obligations.ClockedRunIsTransactions := by
  intro bs s rest hs hedges
  obtain ⟨t, rs, hruns, hlength, hrun⟩ := runBeats_clocked bs hs
  have hhost : s = s.withHost { edges := hostScript bs ++ rest, delivered := s.host.delivered } := by
    rw [← hedges]
    rfl
  refine ⟨t, rs, hruns, hlength, ?_⟩
  rw [hhost]
  exact hrun rest _

end Sys2Proof.Machine

/-! # Proof that unspecified state is unobservable (spec/10_state.md R30, R34)

`State.vary` is the state with other contents of TABLE and CUR. Every operation keeps two states apart only in what cannot
be observed, and a command that answers OK reads TABLE only with an engine and an accumulator only of a live slot. -/

namespace Sys2Proof.Machine

/-- The state with other contents of TABLE and CUR. -/
def State.vary (s : State) (table cur : Vector Word 256) : State :=
  { s with eng := { s.eng with table := table }, cur := cur }

theorem sameObservable_iff {s s' : State} : SameObservable s s' ↔ ∃ table cur, s' = s.vary table cur ∧
    (s.eng.valid = true → table = s.eng.table) ∧ ∀ h, s.hvAt h = true → (s.vary table cur).curAt h = s.curAt h := by
  constructor
  · rintro ⟨hs, htable, hcur⟩
    have heq : s' = s.vary s'.eng.table s'.cur := hs
    exact ⟨_, _, heq, htable, heq ▸ hcur⟩
  · rintro ⟨table, cur, rfl, htable, hcur⟩
    exact ⟨rfl, htable, hcur⟩

theorem SameObservable.refl (s : State) : SameObservable s s := ⟨rfl, fun _ => rfl, fun _ _ => rfl⟩

section Update
variable {s s' : State} (hs : SameObservable s s')
include hs

/-- An update that neither reads nor writes TABLE, CUR, ENG_VALID and HV keeps two states apart only there. -/
theorem SameObservable.map {f : State → State} (hf : ∀ t table cur, f (t.vary table cur) = (f t).vary table cur)
    (heng : (f s).eng = s.eng) (hslots : s.SameSlots (f s)) : SameObservable (f s) (f s') := by
  obtain ⟨table, cur, rfl, htable, hcur⟩ := sameObservable_iff.mp hs
  refine sameObservable_iff.mpr ⟨table, cur, hf s table cur, heng ▸ htable, fun h hh => ?_⟩
  obtain ⟨hcurAt, hhv⟩ := hslots h
  rw [hcurAt]
  exact hcur h (hhv ▸ hh)

theorem SameObservable.present (r : Response) : SameObservable (s.present r) (s'.present r) :=
  hs.map (f := (·.present r)) (fun _ _ _ => rfl) rfl fun _ => ⟨rfl, rfl⟩

theorem SameObservable.accept : SameObservable s.accept s'.accept :=
  hs.map (f := State.accept) (fun _ _ _ => rfl) rfl fun _ => ⟨rfl, rfl⟩

theorem SameObservable.deliver (r : Response) : SameObservable (s.deliver r) (s'.deliver r) :=
  hs.map (f := (·.deliver r)) (fun _ _ _ => rfl) rfl fun _ => ⟨rfl, rfl⟩

theorem SameObservable.setEdges (edges : List Pins) : SameObservable (s.setEdges edges) (s'.setEdges edges) :=
  hs.map (f := (·.setEdges edges)) (fun _ _ _ => rfl) rfl fun _ => ⟨rfl, rfl⟩

theorem SameObservable.setStg (g : Staging) : SameObservable (s.setStg g) (s'.setStg g) :=
  hs.map (f := (·.setStg g)) (fun _ _ _ => rfl) rfl fun _ => ⟨rfl, rfl⟩

theorem SameObservable.memWrite (a : Nat) (v : Byte) : SameObservable (s.memWrite a v) (s'.memWrite a v) :=
  hs.map (f := (·.memWrite a v)) (fun _ _ _ => rfl) rfl fun _ => ⟨rfl, rfl⟩

theorem SameObservable.hardReset : SameObservable s.hardReset s'.hardReset := by
  obtain ⟨table, cur, rfl, -, -⟩ := sameObservable_iff.mp hs
  exact .refl _

/-- Without a live slot and with the same engine, no difference can be observed. -/
theorem SameObservable.setEng_clearHv (e : Engine) : SameObservable (s.setEng e).clearHv (s'.setEng e).clearHv := by
  obtain ⟨table, cur, rfl, -, -⟩ := sameObservable_iff.mp hs
  exact ⟨rfl, fun _ => rfl, fun h hh => by simp at hh⟩

theorem SameObservable.setCur (h : BitVec 8) (v : Word) : SameObservable (s.setCur h v) (s'.setCur h v) := by
  obtain ⟨table, cur, rfl, htable, hcur⟩ := sameObservable_iff.mp hs
  refine ⟨rfl, htable, fun k hk => ?_⟩
  rw [State.curAt_setCur, State.curAt_setCur, hcur k hk]

/-- A slot can be made live when it holds the same accumulator. -/
theorem SameObservable.setHv (h : BitVec 8) {v : Bool} (hv : v = true → s'.curAt h = s.curAt h) :
    SameObservable (s.setHv h v) (s'.setHv h v) := by
  obtain ⟨table, cur, rfl, htable, hcur⟩ := sameObservable_iff.mp hs
  refine ⟨rfl, htable, fun k hk => ?_⟩
  rw [State.hvAt_setHv] at hk
  split at hk
  next heq => exact heq ▸ hv hk
  next => exact hcur k hk

theorem SameObservable.writeBytes (off : Nat) (data : Word) (n : Nat) :
    SameObservable (s.writeBytes off data n) (s'.writeBytes off data n) := by
  induction n with
  | zero => exact hs
  | succ n ih => exact ih.memWrite _ _

theorem SameObservable.firstStatus_eq (i : Instr) : firstStatus s' i = firstStatus s i := by
  obtain ⟨table, cur, rfl, -, -⟩ := sameObservable_iff.mp hs
  exact firstStatus_congr rfl rfl rfl fun _ _ => rfl

/-- With an engine, the whole engine is the same. -/
theorem SameObservable.eng_eq (hv : s.eng.valid = true) : s'.eng = s.eng := by
  obtain ⟨table, cur, rfl, htable, -⟩ := sameObservable_iff.mp hs
  rw [State.vary, htable hv]

theorem SameObservable.crcChain_eq (hv : s.eng.valid = true) (c : Word) (off n : Nat) :
    s'.crcChain c off n = s.crcChain c off n := by
  have heng := hs.eng_eq hv
  obtain ⟨table, cur, rfl, -, -⟩ := sameObservable_iff.mp hs
  rw [State.crcChain_eq_foldl, State.crcChain_eq_foldl, heng]
  rfl

/-- A command that answers OK reads TABLE only with an engine and an accumulator only of a live slot. -/
theorem SameObservable.effect {i : Instr} (hok : firstStatus s i = .ok) :
    SameObservable (effect i s) (effect i s') ∧ datum i s' = datum i s := by
  obtain ⟨hvalid, hslot, -, -⟩ := (firstStatus_eq_ok_iff s i).mp hok
  have heng := fun hi => hs.eng_eq (hvalid hi)
  obtain ⟨hstg, hcur⟩ : s'.stg = s.stg ∧ ∀ h, s.hvAt h = true → s'.curAt h = s.curAt h := by
    obtain ⟨table, cur, rfl, -, hcur⟩ := sameObservable_iff.mp hs
    exact ⟨rfl, hcur⟩
  have hlive : ∀ h, badSlot s i = (decide (h.toNat ≥ s.params.numHashers) || !s.hvAt h) → s'.curAt h = s.curAt h := by
    intro h hb
    rw [hb] at hslot
    exact hcur h (by simpa using (Bool.or_eq_false_iff.mp hslot).2)
  cases i with
  | nop | revb => exact ⟨hs, rfl⟩
  | info =>
    obtain ⟨table, cur, rfl, -, -⟩ := sameObservable_iff.mp hs
    exact ⟨hs, rfl⟩
  | tabrd idx => exact ⟨hs, by rw [datum, datum, heng rfl]⟩
  | hget h => exact ⟨hs, by rw [datum, datum, heng rfl, hlive h rfl]⟩
  | setpoly | setinit | setxor =>
    simp only [Machine.effect, hstg]
    exact ⟨hs.setStg _, rfl⟩
  | config w ri ro =>
    simp only [Machine.effect, hstg]
    exact ⟨hs.setEng_clearHv _, rfl⟩
  | hnew h =>
    simp only [Machine.effect, heng rfl]
    exact ⟨(hs.setCur h _).setHv h fun _ => by simp, rfl⟩
  | hrst h =>
    simp only [Machine.effect, heng rfl]
    exact ⟨hs.setCur h _, rfl⟩
  | hupd h byte =>
    simp only [Machine.effect, heng rfl, hlive h rfl]
    exact ⟨hs.setCur h _, rfl⟩
  | hupdr h off len =>
    simp only [Machine.effect, hs.crcChain_eq (hvalid rfl), hlive h rfl]
    exact ⟨hs.setCur h _, rfl⟩
  | hfree h => exact ⟨hs.setHv h nofun, rfl⟩
  | bufwr => exact ⟨hs.writeBytes .., rfl⟩

theorem SameObservable.exec (i : Instr) :
    ∃ t t', exec i s = .next t ∧ exec i s' = .next t' ∧ SameObservable t t' :=
  exec_related (fun _ _ r h => h.present r) hs (hs.firstStatus_eq i) hs.effect

theorem SameObservable.runBeat (b : Beat) :
    ∃ t t', runBeat b s = .next t ∧ runBeat b s' = .next t' ∧ SameObservable t t' := by
  cases hd : decode b with
  | error e => exact ⟨_, _, runBeat_of_error hd s, runBeat_of_error hd s', hs.present _⟩
  | ok i =>
    rw [runBeat_of_decode hd, runBeat_of_decode hd]
    exact hs.exec i

theorem SameObservable.clockEdge (p : Pins) :
    ∃ t t', clockEdge p s = .next t ∧ clockEdge p s' = .next t' ∧ SameObservable t t' := by
  have hport : s'.port = s.port := by
    obtain ⟨table, cur, rfl, -, -⟩ := sameObservable_iff.mp hs
    rfl
  obtain ⟨hr, he⟩ | ⟨hr, hb, hv, he⟩ | ⟨hr, hb, hv, he⟩ | ⟨r, hr, hb, hp, hy, he⟩ | ⟨r, hr, hb, -, hy, he⟩ |
    ⟨hr, hb, hp, he⟩ := clockEdge_cases p s <;> rw [he]
  · exact ⟨_, _, rfl, clockEdge_of_rstN_false hr s', hs.hardReset⟩
  · rw [clockEdge_accepts hr (hport ▸ hb) hv]
    exact hs.accept.runBeat p.beat
  · exact ⟨_, _, rfl, clockEdge_offers_nothing hr (hport ▸ hb) hv, hs⟩
  · exact ⟨_, _, rfl, clockEdge_delivers hr (hport ▸ hb) (hport ▸ hp) hy, hs.deliver r⟩
  · exact ⟨_, _, rfl, clockEdge_holds hr (hport ▸ hb) (.inr hy), hs⟩
  · exact ⟨_, _, rfl, clockEdge_holds hr (hport ▸ hb) (.inl (hport ▸ hp)), hs⟩

end Update

/-- Settles O44: both states wait, or both run the same edge. -/
theorem unspecifiedStateIsUnobservable : Obligations.UnspecifiedStateIsUnobservable := by
  intro s s' t hs ht
  have hhost : s'.host = s.host := by
    obtain ⟨table, cur, rfl, -, -⟩ := sameObservable_iff.mp hs
    rfl
  have hstep : ∃ u u', step s = .next u ∧ step s' = .next u' ∧ SameObservable u u' := by
    cases hedges : s.host.edges with
    | nil => exact ⟨s, s', step_nil hedges, step_nil (hhost ▸ hedges), hs⟩
    | cons p rest =>
      rw [step_cons hedges, step_cons (hhost ▸ hedges)]
      exact (hs.setEdges rest).clockEdge p
  obtain ⟨u, u', hu, hu', hsame⟩ := hstep
  cases hu.symm.trans ht
  exact ⟨u', hu', hsame⟩

end Sys2Proof.Machine

/-! # Proofs of the invariants' statements (spec/10_state.md R44; the model's forms, logs 6, 7, 8)

The forms of the slots and of BUF speak of no port, so an accepted command keeps them; the port's own form holds again when
the command's response is pending. -/

namespace Sys2Proof.Machine

/-! ## The invariants at reset (R44, R45) -/

/-- Settles O53: `State.reset` is the reset state at the parameters `Config.params`. -/
theorem blockInvariantAtReset : Obligations.BlockInvariantAtReset := ⟨blockInv_resetWith _, blockInv_resetWith⟩

/-- The model's forms right after hardware reset: no slot is live, BUF is empty and no response is pending. -/
theorem formInv_resetWith (p : Params) : (State.resetWith p).FormInv :=
  ⟨fun h hh => by simp at hh, ⟨Memory.wf_nil, nofun⟩, rfl⟩

/-- Settles O55: `State.reset` is the reset state at the parameters `Config.params`. -/
theorem formInvariantAtReset : Obligations.FormInvariantAtReset := ⟨formInv_resetWith _, formInv_resetWith⟩

/-! ## The model's own forms (logs 6, 7, 8) -/

/-- The forms of the slots and of BUF, which an accepted command keeps while it is pending. -/
def State.StoreInv (s : State) : Prop := s.slotRangeInv ∧ s.bufInv

/-- Making a slot that exists live, or any slot free, keeps the forms. -/
theorem State.StoreInv.setHv {s : State} (hs : s.StoreInv) (h : BitVec 8) {v : Bool}
    (hv : v = true → h.toNat < s.params.numHashers) : (s.setHv h v).StoreInv := by
  obtain ⟨hslot, hbuf⟩ := hs
  refine ⟨fun k hk => ?_, hbuf⟩
  rw [State.hvAt_setHv] at hk
  split at hk
  next heq => exact heq ▸ hv hk
  next => exact hslot k hk

/-- Writing bytes inside BUF keeps the forms. -/
theorem State.StoreInv.writeBytes {s : State} (hs : s.StoreInv) {off n : Nat} (data : Word)
    (hr : off + n ≤ s.params.bufBytes) : (s.writeBytes off data n).StoreInv := by
  obtain ⟨hslot, hwf, hrange⟩ := hs
  obtain ⟨-, -, hslots, hparams, -⟩ := s.writeBytes_frame off data n
  refine ⟨fun h hh => ?_, s.wf_writeBytes off data n hwf, fun a ha => ?_⟩
  · obtain ⟨-, hhv⟩ := hslots h
    rw [hparams]
    exact hslot h (hhv ▸ hh)
  · rw [hparams]
    rw [State.bufWritten_writeBytes, Bool.or_eq_true, decide_eq_true_eq] at ha
    obtain ⟨-, hlt⟩ | hw := ha
    · omega
    · exact hrange a hw

/-- A successful command keeps the forms: only HNEW makes a slot live, and only BUFWR writes BUF. -/
theorem State.StoreInv.effect {s : State} (hs : s.StoreInv) {i : Instr} (hok : firstStatus s i = .ok) :
    (effect i s).StoreInv := by
  obtain ⟨-, hslot, -, hrange⟩ := (firstStatus_eq_ok_iff s i).mp hok
  cases i with
  | nop | info | tabrd | hget | revb | setpoly | setinit | setxor => exact hs
  | hrst | hupd | hupdr => exact hs
  | config =>
    obtain ⟨-, hbuf⟩ := hs
    exact ⟨fun h hh => by simp [Machine.effect] at hh, hbuf⟩
  | hnew h => exact hs.setHv h fun _ => by simpa [badSlot] using hslot
  | hfree h => exact hs.setHv h nofun
  | bufwr cnt off data => exact hs.writeBytes data (by simpa [badRange, byteCount, Nat.add_assoc] using hrange)

/-- An accepted beat keeps the model's forms and leaves its response pending. -/
theorem runBeat_formInv {b : Beat} {s t : State} (hs : s.StoreInv) (ht : runBeat b s.accept = .next t) : t.FormInv := by
  have hport : t.portInv := by
    obtain ⟨t', r, ht', hport, -⟩ := runBeat_answers b s.accept
    cases ht'.symm.trans ht
    rw [State.portInv, hport]
    rfl
  obtain ⟨hslot, hbuf⟩ : t.StoreInv := by
    obtain ⟨st, -, rfl⟩ | ⟨i, -, hok, rfl⟩ := runBeat_next ht
    · exact hs
    · exact State.StoreInv.effect (s := s.accept) hs hok
  exact ⟨hslot, hbuf, hport⟩

/-- A rising edge keeps the model's forms. -/
theorem clockEdge_formInv {p : Pins} {s t : State} (hs : s.FormInv) (ht : clockEdge p s = .next t) : t.FormInv := by
  obtain ⟨hslot, hbuf, -⟩ := id hs
  obtain ⟨-, he⟩ | ⟨-, -, -, he⟩ | ⟨-, -, -, he⟩ | ⟨r, -, -, -, -, he⟩ | ⟨r, -, -, -, -, he⟩ | ⟨-, -, -, he⟩ :=
    clockEdge_cases p s <;> rw [he] at ht
  case inr.inl => exact runBeat_formInv ⟨hslot, hbuf⟩ ht
  all_goals cases ht
  case inl => exact formInv_resetWith s.params
  case inr.inr.inr.inl => exact ⟨hslot, hbuf, rfl⟩
  all_goals exact hs

/-- Settles O54: a step waits or is an edge. -/
theorem formInvariantKept : Obligations.FormInvariantKept := by
  intro s t hs ht
  cases hedges : s.host.edges with
  | nil =>
    rw [step_nil hedges] at ht
    cases ht
    exact hs
  | cons p rest =>
    rw [step_cons hedges] at ht
    exact clockEdge_formInv (s := s.setEdges rest) hs ht

end Sys2Proof.Machine
